-- ==== Sys2Proof/Word.lean ====
section
/-! DEFINITION. The word types of the core (00_scope.md R7, 30_encoding.md R52). All values are unsigned;
nothing in this instruction set is signed (00_scope.md section 5). -/

namespace Sys2Proof

/-- A memory byte, a general register, a timer or an NN immediate: 8 bits. -/
abbrev Byte := BitVec 8

/-- An instruction word, the pc, I or a stack entry: 16 bits. -/
abbrev Word := BitVec 16

/-- The class field, the N immediate or a key code: 4 bits. -/
abbrev Nibble := BitVec 4

/-- The NNN immediate: 12 bits. -/
abbrev Imm12 := BitVec 12

/-- A general register's index, the X or Y field: V0..VF (10_state.md R12). -/
abbrev Reg := Fin 16

/-- VF, the flag register (10_state.md R14). -/
abbrev vf : Reg := 15

end Sys2Proof
end

