-- ==== Sys2Proof/Machine/Flags.lean ====
section
/-! DEFINITION. Every flag value the spec gives VF (10_state.md R14, R30): carry, no borrow, the bit shifted out, the
collision (42_alu.md R87, 44_display.md R112). -/

namespace Sys2Proof.Machine

/-- A flag as the byte VF holds: 1 or 0. -/
def flagByte (b : Bool) : Byte := if b then 1 else 0

/-- Carry out of bit 7 of an addition (R96): the unbounded sum is above 255. -/
def carryFlag (a b : Byte) : Byte := flagByte (decide (a.toNat + b.toNat > 255))

/-- No borrow in `a - b` (R97, R99; D10): the minuend is at least the subtrahend. -/
def noBorrowFlag (a b : Byte) : Byte := flagByte (decide (a.toNat ≥ b.toNat))

/-- The bit a right shift loses: bit 0 (R98). -/
def shiftedOutRight (a : Byte) : Byte := a &&& 1

/-- The bit a left shift loses: bit 7 (R100). -/
def shiftedOutLeft (a : Byte) : Byte := (a >>> 7) &&& 1

end Sys2Proof.Machine
end

