-- ==== Sys2Proof/WellFormed.lean ====
section
/-! DEFINITION. What a well-formed instruction is. A term of Instr needs no check: the decoder "makes no check of any
field value" (30_encoding.md R53) and each field's type has exactly the field's width. What can be ill formed is a WORD:
its fixed bits may match no row of the opcode map (R55, strict matching D8). The map is written here from R55 on its
own, apart from the decoder of R57, so that the two can be held against each other. -/

namespace Sys2Proof

/-- One row of the opcode map of R55: the fixed bits are those of `mask`, their values those of `pattern`. -/
structure OpcodeRow where
  mnemonic : String
  pattern  : Word
  mask     : Word
  deriving DecidableEq, Repr

/-- The word has the row's fixed bits. -/
def OpcodeRow.admits (r : OpcodeRow) (w : Word) : Bool := w &&& r.mask == r.pattern

/-- The row of R55 an instruction belongs to. -/
def Instr.row : Instr → OpcodeRow
  | .cls         => ⟨"CLS",       0x00E0, 0xFFFF⟩
  | .ret         => ⟨"RET",       0x00EE, 0xFFFF⟩
  | .jp _        => ⟨"JP",        0x1000, 0xF000⟩
  | .call _      => ⟨"CALL",      0x2000, 0xF000⟩
  | .seImm _ _   => ⟨"SE_IMM",    0x3000, 0xF000⟩
  | .sneImm _ _  => ⟨"SNE_IMM",   0x4000, 0xF000⟩
  | .seReg _ _   => ⟨"SE_REG",    0x5000, 0xF00F⟩
  | .ldImm _ _   => ⟨"LD_IMM",    0x6000, 0xF000⟩
  | .addImm _ _  => ⟨"ADD_IMM",   0x7000, 0xF000⟩
  | .ldReg _ _   => ⟨"LD_REG",    0x8000, 0xF00F⟩
  | .orReg _ _   => ⟨"OR",        0x8001, 0xF00F⟩
  | .andReg _ _  => ⟨"AND",       0x8002, 0xF00F⟩
  | .xorReg _ _  => ⟨"XOR",       0x8003, 0xF00F⟩
  | .addReg _ _  => ⟨"ADD_REG",   0x8004, 0xF00F⟩
  | .subReg _ _  => ⟨"SUB",       0x8005, 0xF00F⟩
  | .shr _ _     => ⟨"SHR",       0x8006, 0xF00F⟩
  | .subnReg _ _ => ⟨"SUBN",      0x8007, 0xF00F⟩
  | .shl _ _     => ⟨"SHL",       0x800E, 0xF00F⟩
  | .sneReg _ _  => ⟨"SNE_REG",   0x9000, 0xF00F⟩
  | .ldI _       => ⟨"LD_I",      0xA000, 0xF000⟩
  | .jpV0 _      => ⟨"JP_V0",     0xB000, 0xF000⟩
  | .rnd _ _     => ⟨"RND",       0xC000, 0xF000⟩
  | .drw _ _ _   => ⟨"DRW",       0xD000, 0xF000⟩
  | .skp _       => ⟨"SKP",       0xE09E, 0xF0FF⟩
  | .sknp _      => ⟨"SKNP",      0xE0A1, 0xF0FF⟩
  | .ldVxDt _    => ⟨"LD_VX_DT",  0xF007, 0xF0FF⟩
  | .ldVxK _     => ⟨"LD_VX_K",   0xF00A, 0xF0FF⟩
  | .ldDtVx _    => ⟨"LD_DT_VX",  0xF015, 0xF0FF⟩
  | .ldStVx _    => ⟨"LD_ST_VX",  0xF018, 0xF0FF⟩
  | .addIVx _    => ⟨"ADD_I_VX",  0xF01E, 0xF0FF⟩
  | .ldFVx _     => ⟨"LD_F_VX",   0xF029, 0xF0FF⟩
  | .ldBVx _     => ⟨"LD_B_VX",   0xF033, 0xF0FF⟩
  | .ldMemVx _   => ⟨"LD_MEM_VX", 0xF055, 0xF0FF⟩
  | .ldVxMem _   => ⟨"LD_VX_MEM", 0xF065, 0xF0FF⟩

/-- The whole opcode map: the rows of one instruction of each constructor. -/
def opcodeMap : List OpcodeRow :=
  ([.cls, .ret, .jp 0, .call 0, .seImm 0 0, .sneImm 0 0, .seReg 0 0, .ldImm 0 0, .addImm 0 0, .ldReg 0 0, .orReg 0 0,
    .andReg 0 0, .xorReg 0 0, .addReg 0 0, .subReg 0 0, .shr 0 0, .subnReg 0 0] ++
   [.shl 0 0, .sneReg 0 0, .ldI 0, .jpV0 0, .rnd 0 0, .drw 0 0 0, .skp 0, .sknp 0, .ldVxDt 0, .ldVxK 0, .ldDtVx 0,
    .ldStVx 0, .addIVx 0, .ldFVx 0, .ldBVx 0, .ldMemVx 0, .ldVxMem 0] : List Instr).map Instr.row

/-- A word is well formed when some row of the map admits it; every other word is an unknown opcode (R58, R60). -/
def wordWellFormed (w : Word) : Bool := opcodeMap.any (·.admits w)

end Sys2Proof
end

