-- ==== Sys2Proof/Decode.lean ====
section
/-! DEFINITION. The decoder of 30_encoding.md R57 (fields R52), total on every word and rejecting by name; then the
encoder, written from the patterns of R55. -/

namespace Sys2Proof

/-- Why bytes are no instruction: the groups of R58, and fewer than the two bytes of R51. -/
inductive DecodeError where
  /-- class 0 other than 00E0 and 00EE (R59) -/
  | unknownClass0
  /-- class 5 with N other than 0 -/
  | unknownClass5
  /-- class 8 with N in 8, 9, A, B, C, D, F -/
  | unknownClass8
  /-- class 9 with N other than 0 -/
  | unknownClass9
  /-- class E with NN other than 9E and A1 -/
  | unknownClassE
  /-- class F with an NN that R57 does not list -/
  | unknownClassF
  /-- fewer than two bytes: no word (never met by the core's fetch, R39) -/
  | truncated
  deriving DecidableEq, Repr

/-! ## The fields of R52 -/

/-- class = w[15:12] -/
def fieldClass (w : Word) : Nibble := w.extractLsb 15 12
/-- X = w[11:8] -/
def fieldX (w : Word) : Reg := (w.extractLsb 11 8).toFin
/-- Y = w[7:4] -/
def fieldY (w : Word) : Reg := (w.extractLsb 7 4).toFin
/-- N = w[3:0] -/
def fieldN (w : Word) : Nibble := w.extractLsb 3 0
/-- NN = w[7:0] -/
def fieldNN (w : Word) : Byte := w.extractLsb 7 0
/-- NNN = w[11:0] -/
def fieldNNN (w : Word) : Imm12 := w.extractLsb 11 0

/-! ## The decoder of R57 -/

/-- Class 8 selects by N. -/
def decodeClass8 (x y : Reg) (n : Nibble) : Except DecodeError Instr :=
  match n with
  | 0x0 => .ok (.ldReg x y)
  | 0x1 => .ok (.orReg x y)
  | 0x2 => .ok (.andReg x y)
  | 0x3 => .ok (.xorReg x y)
  | 0x4 => .ok (.addReg x y)
  | 0x5 => .ok (.subReg x y)
  | 0x6 => .ok (.shr x y)
  | 0x7 => .ok (.subnReg x y)
  | 0xE => .ok (.shl x y)
  | _   => .error .unknownClass8

/-- Class E selects by NN. -/
def decodeClassE (x : Reg) (nn : Byte) : Except DecodeError Instr :=
  match nn with
  | 0x9E => .ok (.skp x)
  | 0xA1 => .ok (.sknp x)
  | _    => .error .unknownClassE

/-- Class F selects by NN. -/
def decodeClassF (x : Reg) (nn : Byte) : Except DecodeError Instr :=
  match nn with
  | 0x07 => .ok (.ldVxDt x)
  | 0x0A => .ok (.ldVxK x)
  | 0x15 => .ok (.ldDtVx x)
  | 0x18 => .ok (.ldStVx x)
  | 0x1E => .ok (.addIVx x)
  | 0x29 => .ok (.ldFVx x)
  | 0x33 => .ok (.ldBVx x)
  | 0x55 => .ok (.ldMemVx x)
  | 0x65 => .ok (.ldVxMem x)
  | _    => .error .unknownClassF

/-- `decode(w)` of R57, strict in every fixed bit (D8). -/
def decode (w : Word) : Except DecodeError Instr :=
  let x := fieldX w
  let y := fieldY w
  let n := fieldN w
  let nn := fieldNN w
  let nnn := fieldNNN w
  match fieldClass w with
  | 0x0 => if w = 0x00E0 then .ok .cls else if w = 0x00EE then .ok .ret else .error .unknownClass0
  | 0x1 => .ok (.jp nnn)
  | 0x2 => .ok (.call nnn)
  | 0x3 => .ok (.seImm x nn)
  | 0x4 => .ok (.sneImm x nn)
  | 0x5 => if n = 0 then .ok (.seReg x y) else .error .unknownClass5
  | 0x6 => .ok (.ldImm x nn)
  | 0x7 => .ok (.addImm x nn)
  | 0x8 => decodeClass8 x y n
  | 0x9 => if n = 0 then .ok (.sneReg x y) else .error .unknownClass9
  | 0xA => .ok (.ldI nnn)
  | 0xB => .ok (.jpV0 nnn)
  | 0xC => .ok (.rnd x nn)
  | 0xD => .ok (.drw x y n)
  | 0xE => decodeClassE x nn
  -- what is left of a 4-bit class is 0xF
  | _   => decodeClassF x nn

/-- The word of two bytes in memory order: big-endian, high byte first (20_memory.md R37). -/
def wordOfBytes (hi lo : Byte) : Word := hi ++ lo

/-- The first instruction of a byte sequence and the bytes after it. -/
def decodeBytes : List Byte → Except DecodeError (Instr × List Byte)
  | hi :: lo :: rest =>
    match decode (wordOfBytes hi lo) with
    | .ok i    => .ok (i, rest)
    | .error e => .error e
  | _ => .error .truncated

/-! ## The encoder -/

/-- Format A: class, NNN. -/
def wordA (c : Nibble) (nnn : Imm12) : Word := c ++ nnn
/-- Format XNN: class, X, NN (format X with its fixed low byte). -/
def wordXNN (c : Nibble) (x : Reg) (nn : Byte) : Word := c ++ (BitVec.ofFin x : Nibble) ++ nn
/-- Format XYN: class, X, Y, N (format XY with its fixed low nibble). -/
def wordXYN (c : Nibble) (x y : Reg) (n : Nibble) : Word :=
  c ++ (BitVec.ofFin x : Nibble) ++ (BitVec.ofFin y : Nibble) ++ n

/-- The word of an instruction, by the patterns of R55. -/
def encode : Instr → Word
  | .cls         => 0x00E0
  | .ret         => 0x00EE
  | .jp nnn      => wordA 0x1 nnn
  | .call nnn    => wordA 0x2 nnn
  | .seImm x nn  => wordXNN 0x3 x nn
  | .sneImm x nn => wordXNN 0x4 x nn
  | .seReg x y   => wordXYN 0x5 x y 0x0
  | .ldImm x nn  => wordXNN 0x6 x nn
  | .addImm x nn => wordXNN 0x7 x nn
  | .ldReg x y   => wordXYN 0x8 x y 0x0
  | .orReg x y   => wordXYN 0x8 x y 0x1
  | .andReg x y  => wordXYN 0x8 x y 0x2
  | .xorReg x y  => wordXYN 0x8 x y 0x3
  | .addReg x y  => wordXYN 0x8 x y 0x4
  | .subReg x y  => wordXYN 0x8 x y 0x5
  | .shr x y     => wordXYN 0x8 x y 0x6
  | .subnReg x y => wordXYN 0x8 x y 0x7
  | .shl x y     => wordXYN 0x8 x y 0xE
  | .sneReg x y  => wordXYN 0x9 x y 0x0
  | .ldI nnn     => wordA 0xA nnn
  | .jpV0 nnn    => wordA 0xB nnn
  | .rnd x nn    => wordXNN 0xC x nn
  | .drw x y n   => wordXYN 0xD x y n
  | .skp x       => wordXNN 0xE x 0x9E
  | .sknp x      => wordXNN 0xE x 0xA1
  | .ldVxDt x    => wordXNN 0xF x 0x07
  | .ldVxK x     => wordXNN 0xF x 0x0A
  | .ldDtVx x    => wordXNN 0xF x 0x15
  | .ldStVx x    => wordXNN 0xF x 0x18
  | .addIVx x    => wordXNN 0xF x 0x1E
  | .ldFVx x     => wordXNN 0xF x 0x29
  | .ldBVx x     => wordXNN 0xF x 0x33
  | .ldMemVx x   => wordXNN 0xF x 0x55
  | .ldVxMem x   => wordXNN 0xF x 0x65

/-! ## The host's reading of the opcode table -/

/-- The bytes of an instruction whose bits are `w`, in memory order: the table has one 16-bit word a row, so the high
byte (bits 15..8) lies first. Bits at and above `nbits` are 0. -/
def tableBytes (nbits w : Nat) : List Byte :=
  let bits := w % 2 ^ nbits
  [BitVec.ofNat 8 (bits / 256), BitVec.ofNat 8 bits]

/-- The instruction the decoder reads from a table word. -/
def decodeTableWord (nbits w : Nat) : Option Instr :=
  match decodeBytes (tableBytes nbits w) with
  | .ok (i, _) => some i
  | .error _   => none

end Sys2Proof
end

