-- ==== Sys2Proof/Config.lean ====
section
/-! DEFINITION. The parameters of 00_scope.md R8 and the free value of RND. The four parameters are a record of plain
data that State carries and no step changes, so that a statement about every state covers every choice of them
(assumption log 1); RANDOM is a constant with no body (assumption log 2). -/

namespace Sys2Proof

/-- What FX55 and FX65 do to I (R8 `BLOCK_I_MODE`, D13). -/
inductive BlockIMode where
  | advance    -- I := I + X + 1
  | unchanged
  deriving DecidableEq, Repr

/-- Which register 8XY6 and 8XYE shift (R8 `SHIFT_SOURCE`, D11). -/
inductive ShiftSource where
  | vx
  | vy
  deriving DecidableEq, Repr

/-- Whether a program may write 0x000-0x04F (R8 `FONT_WRITE_POLICY`, D17). -/
inductive FontWritePolicy where
  | fault
  | allow
  deriving DecidableEq, Repr

/-- The parameters of R8 that are fixed for a machine. -/
structure Config where
  blockIMode      : BlockIMode
  shiftSource     : ShiftSource
  fontWritePolicy : FontWritePolicy
  fontRom         : Vector Byte 80
  deriving DecidableEq, Repr

/-- The default `FONT_ROM`: the table of 10_state.md R32, glyph 0 first, five rows a glyph. -/
def Config.defaultFont : Vector Byte 80 := #v[
  0xF0, 0x90, 0x90, 0x90, 0xF0,   0x20, 0x60, 0x20, 0x20, 0x70,
  0xF0, 0x10, 0xF0, 0x80, 0xF0,   0xF0, 0x10, 0xF0, 0x10, 0xF0,
  0x90, 0x90, 0xF0, 0x10, 0x10,   0xF0, 0x80, 0xF0, 0x10, 0xF0,
  0xF0, 0x80, 0xF0, 0x90, 0xF0,   0xF0, 0x10, 0x20, 0x40, 0x40,
  0xF0, 0x90, 0xF0, 0x90, 0xF0,   0xF0, 0x90, 0xF0, 0x10, 0xF0,
  0xF0, 0x90, 0xF0, 0x90, 0x90,   0xE0, 0x90, 0xE0, 0x90, 0xE0,
  0xF0, 0x80, 0x80, 0x80, 0xF0,   0xE0, 0x90, 0x90, 0x90, 0xE0,
  0xF0, 0x80, 0xF0, 0x80, 0xF0,   0xF0, 0x80, 0xF0, 0x80, 0x80]

/-- The defaults of R8. -/
def Config.default : Config where
  blockIMode      := .advance
  shiftSource     := .vx
  fontWritePolicy := .fault
  fontRom         := Config.defaultFont

/-- `RANDOM` (R8, R101): the byte of the n-th draw. It has no body: nothing can be proved about its value, so a claim
about CXNN holds for every draw. -/
opaque Config.randomByte : Nat → Byte

end Sys2Proof
end

