-- ==== Sys2Proof/Machine/State.lean ====
section
/-! DEFINITION. The state of the core (10_state.md R10, R11): every field R10 names, and four fields of the model's own,
each plain data: the parameters of R8, the driver's commands still to come, the number of random draws made, and what
the last command returned to the driver. -/

namespace Sys2Proof.Machine

/-- Main memory as the cells that differ from what an unlisted address reads as, by rising address (assumption log 10). -/
abbrev Memory := List Host.Cell

/-- The framebuffer, indexed `[x][y]` with x < 64, y < 32 (R22, 20_memory.md R34). -/
abbrev Display := Vector (Vector Bool 32) 64

/-- The causes of 60_exceptions.md R131. -/
inductive Cause where
  /-- 1: a next pc that is odd or above 0xFFE, or a fetch from such a pc; fatal -/
  | addrPc
  /-- 2: an I-derived access above 0xFFF; fatal -/
  | addrMem
  /-- 3: a write into 0x000-0x04F under FONT_WRITE_POLICY = FAULT; fatal -/
  | fontWrite
  /-- 4: CALL with sp = 16; fatal -/
  | stackOvf
  /-- 5: RET with sp = 0; fatal -/
  | stackUnf
  /-- 6: a word that decodes to no instruction; not fatal -/
  | unknownOp
  /-- 7: INIT without a ROM or with one above 3584 bytes; no FSR bit -/
  | loadError
  deriving DecidableEq, Repr

/-- STEP's argument (40_step_cycle.md R62): no key event, or one that carries `none` or a key code. The code is a
natural number here because R127 says what a code above 15 does. -/
inductive KeyEvent where
  | absent
  | present (k : Option Nat)
  deriving DecidableEq, Repr

/-- The driver's five commands (R62). An absent ROM is `init none`. -/
inductive Command where
  | init (rom : Option (List Byte))
  | step (event : KeyEvent)
  | reportKey (k : Option Nat)
  | tick
  | clearDirty
  deriving DecidableEq, Repr

/-- The effects record every STEP returns (R64). -/
structure Effects where
  committed      : Bool
  displayChanged : Bool
  timersWritten  : Bool
  waitingForKey  : Bool
  halted         : Bool
  reports        : List Cause
  deriving DecidableEq, Repr

/-- What a command returned to the driver: a STEP its effects record (R64), an INIT OK or LOAD_ERROR (R145, R146). -/
inductive Response where
  | initOk
  | initLoadError
  | effects (e : Effects)
  deriving DecidableEq, Repr

structure State where
  /-- mem[0..4096) (R33) -/
  mem         : Memory
  /-- V0..VF (R12); VF is also the only flag (R14, R30) -/
  v           : Vector Byte 16
  /-- I (R15) -/
  i           : Word
  /-- pc (R16) -/
  pc          : Word
  /-- the return stack (R18) -/
  stack       : Vector Word 16
  /-- sp, the next free slot, 0..16 (R19) -/
  sp          : Fin 17
  /-- DT (R20) -/
  dt          : Byte
  /-- ST (R20) -/
  st          : Byte
  /-- disp (R22) -/
  disp        : Display
  /-- pending_key (R24) -/
  pendingKey  : Option Nibble
  /-- draw_dirty (R23) -/
  drawDirty   : Bool
  /-- waiting_key (R25) -/
  waitingKey  : Bool
  /-- FSR (R26) -/
  fsr         : Byte
  /-- FCAUSE (R27) -/
  fcause      : Byte
  /-- FPC (R27) -/
  fpc         : Word
  /-- FOP (R27) -/
  fop         : Word
  /-- FADDR (R27) -/
  faddr       : BitVec 17
  /-- initialised (R28) -/
  initialised : Bool
  /-- the model's: the parameters of R8; no step changes them (assumption log 1) -/
  cfg         : Config
  /-- the model's: the commands the driver issues next, first one first; when there is none it issues STEP without a key
  event (assumption log 3) -/
  driver      : List Command
  /-- the model's: how many bytes CXNN has drawn (assumption log 2) -/
  draws       : Nat
  /-- the model's: what the last STEP or INIT returned to the driver (assumption log 4) -/
  response    : Response
  deriving DecidableEq, Repr

/-- A machine stop. There is none: "No fault halts the core: every later command is accepted" (R133). Every fault of
R131 is recorded in FSR and the first-fault registers of a NEXT state, so this type is empty and no step can end in a
fault: safe. -/
inductive Fault
  deriving DecidableEq, Repr

/-- A command without a meaning. -/
inductive Refusal where
  /-- An instruction without a meaning yet; no arm of exec raises it. Safe. -/
  | notModelled (mnemonic : String)
  /-- Raised by every command but INIT while `initialised` = 0: "the model refuses it" (R28, D29). Safe: nothing can be
  proved about what follows. -/
  | notInitialised
  /-- Raised by REPORT_KEY and by STEP's key event for a value that is neither `none` nor 0..15: "has no meaning and the
  model refuses it" (R127, D35). Safe, as above. -/
  | badKeyCode
  deriving DecidableEq, Repr

/-- The state after reset: INIT with the empty ROM, which R145 calls legal, under the default parameters (R31; assumption
log 7). Nothing is listed in memory: the font and the zeros are what an unlisted address reads as. -/
def State.reset : State where
  mem         := []
  v           := Vector.replicate 16 0
  i           := 0
  pc          := 0x200
  stack       := Vector.replicate 16 0
  sp          := 0
  dt          := 0
  st          := 0
  disp        := Vector.replicate 64 (Vector.replicate 32 false)
  pendingKey  := none
  drawDirty   := false
  waitingKey  := false
  fsr         := 0
  fcause      := 0
  fpc         := 0
  fop         := 0
  faddr       := 0
  initialised := true
  cfg         := Config.default
  driver      := []
  draws       := 0
  response    := .initOk

end Sys2Proof.Machine
end

