-- ==== Sys2Proof/Machine/Ops.lean ====
section
/-! DEFINITION. The named operations over memory, registers and the pc, and the end of a step: taking a fault, or
checking the next pc and committing. A fault is the only exception this core has, and nothing returns from one: no
handler runs (60_exceptions.md R136, R137), so there is no return operation beside it. -/

namespace Sys2Proof.Machine

/-! ## Memory -/

/-- What an address that memory does not list reads as: its value after an INIT (10_state.md R31), `FONT_ROM` in
0x000-0x04F and 0 elsewhere. -/
def unlisted (c : Config) (a : Nat) : Byte := if h : a < 80 then c.fontRom[a] else 0

/-- The byte at an address, `d` giving the bytes of unlisted addresses. -/
def Memory.read (d : Nat → Byte) : Memory → Nat → Byte
  | [], a          => d a
  | (b, u) :: m, a => if b = a then u else Memory.read d m a

/-- One byte written; writing what an unlisted address reads as removes the cell. -/
def Memory.write (d : Nat → Byte) : Memory → Nat → Byte → Memory
  | [], a, x          => if x = d a then [] else [(a, x)]
  | (b, u) :: m, a, x =>
    if b < a then (b, u) :: Memory.write d m a x
    else if b = a then (if x = d a then m else (a, x) :: m)
    else if x = d a then (b, u) :: m else (a, x) :: (b, u) :: m

/-- Bytes written at `a`, `a + 1`, ... in that order. -/
def Memory.writeAll (d : Nat → Byte) (m : Memory) (a : Nat) : List Byte → Memory
  | []      => m
  | x :: xs => Memory.writeAll d (Memory.write d m a x) (a + 1) xs

/-- The canonical form: addresses strictly rising and existing (20_memory.md R33), no cell equal to what its address
reads as unlisted. -/
def Memory.wf (d : Nat → Byte) : Memory → Bool
  | []          => true
  | (a, x) :: m => decide (a ≤ 0xFFF) && (x != d a) && (m.head?.all fun c => decide (a < c.1)) && Memory.wf d m

/-- `mem[a]` (20_memory.md R33, R43). -/
def State.byteAt (s : State) (a : Nat) : Byte := Memory.read (unlisted s.cfg) s.mem a

/-- The bytes at `a`, `a + 1`, ..., `a + n - 1`. -/
def State.bytesAt (s : State) (a n : Nat) : List Byte := (List.range n).map fun k => s.byteAt (a + k)

/-- `mem[a] <- x`, without the checks of R41. -/
def State.putByte (s : State) (a : Nat) (x : Byte) : State :=
  { s with mem := Memory.write (unlisted s.cfg) s.mem a x }

/-- Several bytes stored from `a` on, without the checks of R41. -/
def State.putBytes (s : State) (a : Nat) (xs : List Byte) : State :=
  { s with mem := Memory.writeAll (unlisted s.cfg) s.mem a xs }

/-- The check of `MemRead` (20_memory.md R40). -/
def readCheck (a : Nat) : Option Cause := if a > 0xFFF then some .addrMem else none

/-- The check of `MemWrite` (20_memory.md R41), in its order. -/
def writeCheck (p : FontWritePolicy) (a : Nat) : Option Cause :=
  if a > 0xFFF then some .addrMem
  else if a ≤ 0x04F ∧ p = .fault then some .fontWrite
  else none

/-- The first of the addresses `a`, `a + 1`, ..., `a + n - 1` that fails a check, with its cause (R42, R102). -/
def firstFailing (check : Nat → Option Cause) (a : Nat) : Nat → Option (Cause × Nat)
  | 0     => none
  | n + 1 =>
    match check a with
    | some c => some (c, a)
    | none   => firstFailing check (a + 1) n

/-! ## Registers -/

/-- `V[x]` -/
def State.getV (s : State) (x : Reg) : Byte := s.v[x]

/-- `V[x] <- b` -/
def State.setV (s : State) (x : Reg) (b : Byte) : State := { s with v := s.v.set x b }

/-- The output `sound_on` (10_state.md R21). -/
def State.soundOn (s : State) : Bool := s.st != 0

/-! ## Faults (60_exceptions.md) -/

/-- `code(f)` of R131. -/
def Cause.code : Cause → Byte
  | .addrPc    => 1
  | .addrMem   => 2
  | .fontWrite => 3
  | .stackOvf  => 4
  | .stackUnf  => 5
  | .unknownOp => 6
  | .loadError => 7

/-- The FSR bit of R26 and R131, as a mask; LOAD_ERROR has none. -/
def Cause.mask : Cause → Byte
  | .addrPc    => 0x01
  | .addrMem   => 0x02
  | .fontWrite => 0x04
  | .stackOvf  => 0x08
  | .stackUnf  => 0x10
  | .unknownOp => 0x20
  | .loadError => 0x00

/-- Recording (R132): the sticky FSR bit, and the first-fault registers if no fault is recorded yet. `op` is the word of
the step (0 if it was not fetched), `info` what R27 puts into FADDR. -/
def State.record (s : State) (c : Cause) (op : Word) (info : Nat) : State :=
  { s with
    fsr := s.fsr ||| c.mask
    fcause := if s.fcause = 0 then c.code else s.fcause
    fpc := if s.fcause = 0 then s.pc else s.fpc
    fop := if s.fcause = 0 then op else s.fop
    faddr := if s.fcause = 0 then BitVec.ofNat 17 info else s.faddr }

/-- TAKING A FATAL FAULT (40_step_cycle.md R72, R133): of the whole step only the records and `waiting_key <- 0` are
kept. `before` holds the causes the step has reported already. -/
def State.takeFault (s : State) (before : List Cause) (c : Cause) (op : Word) (info : Nat) : State :=
  { s.record c op info with
    waitingKey := false
    response := .effects
      { committed := false, displayChanged := false, timersWritten := false, waitingForKey := false, halted := false,
        reports := before ++ [c] } }

/-! ## The end of a step -/

/-- What EXECUTE hands to CHECK (R66): the working copy T, the next pc (not reduced, R71) and `wait`; with them the two
facts the effects record tells of the instruction (R64). -/
structure Done where
  state          : State
  npc            : Nat
  wait           : Bool := false
  displayChanged : Bool := false
  timersWritten  : Bool := false

/-- An instruction's own part of a step: it is done, or it raises a fatal fault with the FADDR information. -/
inductive Attempt where
  | done (d : Done)
  | raise (c : Cause) (info : Nat)

/-- A pc the core may hold between steps (10_state.md R17). -/
def pcLegal (n : Nat) : Bool := n % 2 == 0 && decide (n ≤ 0xFFE)

/-- COMMIT (R72): T with the checked next pc, and the effects record. -/
def State.commit (before : List Cause) (d : Done) : State :=
  { d.state with
    pc := BitVec.ofNat 16 d.npc
    waitingKey := d.wait
    response := .effects
      { committed := true, displayChanged := d.displayChanged, timersWritten := d.timersWritten, waitingForKey := d.wait,
        halted := false, reports := before } }

/-- CHECK and COMMIT (R66, R71, R72): a raised fault, or a next pc that R17 forbids, suppresses the step. -/
def State.finish (s : State) (before : List Cause) (op : Word) : Attempt → State
  | .raise c info => s.takeFault before c op info
  | .done d       => if pcLegal d.npc then State.commit before d else s.takeFault before .addrPc op d.npc

/-- One instruction run to its end. The word FOP records is the instruction's encoding: each word is at most one
instruction's, and that instruction's only word (assumption log 6). -/
def State.run (s : State) (i : Instr) (a : Attempt) : Host.Outcome State Fault Refusal :=
  .next (s.finish [] (encode i) a)

/-- The default advance `pc + 2` (R70), `t` being the working copy. -/
def State.advance (s t : State) : Attempt := .done { state := t, npc := s.pc.toNat + 2 }

/-- A skip: `pc + 4` if taken, else `pc + 2` (41_control_flow.md R85). -/
def State.skipIf (s : State) (taken : Bool) : Attempt :=
  .done { state := s, npc := s.pc.toNat + (if taken then 4 else 2) }

/-- An instruction with memory accesses: the first failing address is raised, and only if there is none the instruction
goes on (R42, R102). -/
def guarded (failing : Option (Cause × Nat)) (a : Attempt) : Attempt :=
  match failing with
  | some (c, addr) => .raise c addr
  | none           => a

/-- An unknown opcode (R73): reported, no state change, the default advance, which is checked like any other. -/
def State.unknownOp (s : State) (w : Word) : State :=
  let t := s.record .unknownOp w 0
  t.finish [.unknownOp] w (t.advance t)

/-! ## Fetch -/

/-- The word at the pc (40_step_cycle.md R68): the bytes at `pc` and `pc + 1`, big-endian. -/
def State.fetchWord (s : State) : Word := wordOfBytes (s.byteAt s.pc.toNat) (s.byteAt (s.pc.toNat + 1))

end Sys2Proof.Machine
end

