-- ==== Sys2Proof/Machine/Operands.lean ====
section
/-! DEFINITION. The operand forms: the shift source, the key test, the sprite rows, the BCD digits, the block of
registers, and the addresses I + k (43_index_memory.md R102). -/

namespace Sys2Proof.Machine

/-- The register 8XY6 and 8XYE shift (R98, `SHIFT_SOURCE`). -/
def State.shiftSource (s : State) (x y : Reg) : Byte :=
  match s.cfg.shiftSource with
  | .vx => s.getV x
  | .vy => s.getV y

/-- The key test of EX9E and EXA1 (R119, R120): a key is latched and equals V[x]; a value above 15 never does. -/
def State.keyMatches (s : State) (x : Reg) : Bool :=
  match s.pendingKey with
  | none   => false
  | some k => k.setWidth 8 == s.getV x

/-- The address I + k, not wrapped (R102), for k = 0. -/
def State.baseAddr (s : State) : Nat := s.i.toNat

/-- The first of the `n` addresses from I on that may not be read. -/
def State.readFailing (s : State) (n : Nat) : Option (Cause × Nat) := firstFailing readCheck s.baseAddr n

/-- The first of the `n` addresses from I on that may not be written. -/
def State.writeFailing (s : State) (n : Nat) : Option (Cause × Nat) :=
  firstFailing (writeCheck s.cfg.fontWritePolicy) s.baseAddr n

/-- Hundreds, tens and ones (R106), most significant first. -/
def bcdDigits (b : Byte) : List Byte :=
  [BitVec.ofNat 8 (b.toNat / 100), BitVec.ofNat 8 (b.toNat / 10 % 10), BitVec.ofNat 8 (b.toNat % 10)]

/-- V0..V[x], in order (R107). -/
def State.regsUpTo (s : State) (x : Reg) : List Byte := s.v.toList.take (x.val + 1)

/-- The registers after V0..V[x] are loaded from I on (R108). -/
def State.loadedRegs (s : State) (x : Reg) : Vector Byte 16 :=
  Vector.ofFn fun k : Fin 16 => if k ≤ x then s.byteAt (s.baseAddr + k.val) else s.v[k]

/-- I after FX55 or FX65 with field X (R107, R108, `BLOCK_I_MODE`). -/
def State.blockI (s : State) (x : Reg) : Word :=
  match s.cfg.blockIMode with
  | .advance   => s.i + BitVec.ofNat 16 (x.val + 1)
  | .unchanged => s.i

end Sys2Proof.Machine
end

