-- ==== Sys2Proof/Machine/Alu.lean ====
section
/-! DEFINITION. Register loads, arithmetic, logic, shifts and random (42_alu.md). Arithmetic is 8-bit wraparound (R87);
logic, copies, loads, 7XNN and CXNN write no flag (R89). -/

namespace Sys2Proof.Machine

/-- A result with a flag: the result goes to V[x] first and the flag to VF last (R88, D12). -/
def State.setFlagged (s : State) (x : Reg) (result flag : Byte) : State := (s.setV x result).setV vf flag

/-- LD VX, NN (R90). -/
def execLdImm (x : Reg) (nn : Byte) (s : State) : Host.Outcome State Fault Refusal :=
  s.run (.ldImm x nn) (s.advance (s.setV x nn))

/-- ADD VX, NN (R91): no flag. -/
def execAddImm (x : Reg) (nn : Byte) (s : State) : Host.Outcome State Fault Refusal :=
  s.run (.addImm x nn) (s.advance (s.setV x (s.getV x + nn)))

/-- LD VX, VY (R92). -/
def execLdReg (x y : Reg) (s : State) : Host.Outcome State Fault Refusal :=
  s.run (.ldReg x y) (s.advance (s.setV x (s.getV y)))

/-- OR VX, VY (R93). -/
def execOr (x y : Reg) (s : State) : Host.Outcome State Fault Refusal :=
  s.run (.orReg x y) (s.advance (s.setV x (s.getV x ||| s.getV y)))

/-- AND VX, VY (R94). -/
def execAnd (x y : Reg) (s : State) : Host.Outcome State Fault Refusal :=
  s.run (.andReg x y) (s.advance (s.setV x (s.getV x &&& s.getV y)))

/-- XOR VX, VY (R95). -/
def execXor (x y : Reg) (s : State) : Host.Outcome State Fault Refusal :=
  s.run (.xorReg x y) (s.advance (s.setV x (s.getV x ^^^ s.getV y)))

/-- ADD VX, VY (R96). -/
def execAddReg (x y : Reg) (s : State) : Host.Outcome State Fault Refusal :=
  let a := s.getV x
  let b := s.getV y
  s.run (.addReg x y) (s.advance (s.setFlagged x (a + b) (carryFlag a b)))

/-- SUB VX, VY (R97): V[X] - V[Y]. -/
def execSub (x y : Reg) (s : State) : Host.Outcome State Fault Refusal :=
  let a := s.getV x
  let b := s.getV y
  s.run (.subReg x y) (s.advance (s.setFlagged x (a - b) (noBorrowFlag a b)))

/-- SHR VX, VY (R98). -/
def execShr (x y : Reg) (s : State) : Host.Outcome State Fault Refusal :=
  let a := s.shiftSource x y
  s.run (.shr x y) (s.advance (s.setFlagged x (a >>> 1) (shiftedOutRight a)))

/-- SUBN VX, VY (R99): V[Y] - V[X]. -/
def execSubn (x y : Reg) (s : State) : Host.Outcome State Fault Refusal :=
  let a := s.getV x
  let b := s.getV y
  s.run (.subnReg x y) (s.advance (s.setFlagged x (b - a) (noBorrowFlag b a)))

/-- SHL VX, VY (R100). -/
def execShl (x y : Reg) (s : State) : Host.Outcome State Fault Refusal :=
  let a := s.shiftSource x y
  s.run (.shl x y) (s.advance (s.setFlagged x (a <<< 1) (shiftedOutLeft a)))

/-- RND with the byte drawn given: the working copy of R101. -/
def State.rndWith (s : State) (r : Byte) (x : Reg) (nn : Byte) : State :=
  { s.setV x (r &&& nn) with draws := s.draws + 1 }

/-- RND VX, NN (R101): the draw is the free value of this draw's number. -/
def execRnd (x : Reg) (nn : Byte) (s : State) : Host.Outcome State Fault Refusal :=
  s.run (.rnd x nn) (s.advance (s.rndWith (Config.randomByte s.draws) x nn))

end Sys2Proof.Machine
end

