-- ==== Sys2Proof/Machine/Blit.lean ====
section
/-! DEFINITION. The display: clear, the sprite blit engine and the collision detector (44_display.md). -/

namespace Sys2Proof.Machine

/-- `disp[x][y]` -/
def Display.pixel (d : Display) (x : Fin 64) (y : Fin 32) : Bool := d[x][y]

/-- `disp[x][y] <- disp[x][y] ^ 1` -/
def Display.flip (d : Display) (x : Fin 64) (y : Fin 32) : Display := d.set x (d[x].set y (!d[x][y]))

/-- All 2048 pixels 0. -/
def Display.clear : Display := Vector.replicate 64 (Vector.replicate 32 false)

/-- The variables of R110's loop. -/
structure Canvas where
  disp      : Display
  collision : Bool
  changed   : Bool

/-- One sprite bit that is 1, at its pixel: a set pixel is a collision, and the pixel flips (R112). -/
def Canvas.plot (c : Canvas) (x : Fin 64) (y : Fin 32) : Canvas where
  disp      := c.disp.flip x y
  collision := c.collision || c.disp.pixel x y
  changed   := true

/-- One row at its listed columns: bit 7 - j of the row is column j, wrapped (R110, R111). -/
def Canvas.plotRow (x0 : Nat) (y : Fin 32) (row : Byte) (c : Canvas) : List Nat → Canvas
  | []      => c
  | j :: js =>
    Canvas.plotRow x0 y row (if row.getLsbD (7 - j) then c.plot (Fin.ofNat 64 (x0 + j)) y else c) js

/-- The rows from row `y` on, each wrapped to the screen (R111). -/
def Canvas.plotRows (x0 y : Nat) (c : Canvas) : List Byte → Canvas
  | []          => c
  | row :: rows => Canvas.plotRows x0 (y + 1) (c.plotRow x0 (Fin.ofNat 32 y) row (List.range 8)) rows

/-- The whole draw of R110 at origin (x0, y0). -/
def blit (d : Display) (x0 y0 : Nat) (rows : List Byte) : Canvas :=
  Canvas.plotRows x0 y0 { disp := d, collision := false, changed := false } rows

/-- CLS (R109). -/
def execCls (s : State) : Host.Outcome State Fault Refusal :=
  s.run .cls <| .done
    { state := { s with disp := Display.clear, drawDirty := true }, npc := s.pc.toNat + 2, displayChanged := true }

/-- The working copy of DRW (R110, R113): origin and rows are read before anything is written, VF is written last. -/
def State.drawn (s : State) (x y : Reg) (n : Nibble) : Done :=
  let c := blit s.disp (s.getV x).toNat (s.getV y).toNat (s.bytesAt s.baseAddr n.toNat)
  { state := { s.setV vf (flagByte c.collision) with disp := c.disp, drawDirty := s.drawDirty || c.changed }
    npc := s.pc.toNat + 2
    displayChanged := c.changed }

/-- DRW VX, VY, N (R110). -/
def execDrw (x y : Reg) (n : Nibble) (s : State) : Host.Outcome State Fault Refusal :=
  s.run (.drw x y n) (guarded (s.readFailing n.toNat) (.done (s.drawn x y n)))

end Sys2Proof.Machine
end

