-- ==== Sys2Proof/Machine/Control.lean ====
section
/-! DEFINITION. Control transfer (41_control_flow.md). The next pc of each is checked by R71 in State.finish. -/

namespace Sys2Proof.Machine

/-- JP NNN (R77). -/
def execJp (nnn : Imm12) (s : State) : Host.Outcome State Fault Refusal :=
  s.run (.jp nnn) (.done { state := s, npc := nnn.toNat })

/-- CALL NNN (R78): overflow when sp = 16; else pc + 2 goes into the next free slot. -/
def execCall (nnn : Imm12) (s : State) : Host.Outcome State Fault Refusal :=
  s.run (.call nnn) <|
    if h : s.sp.val < 16 then
      .done
        { state := { s with stack := s.stack.set s.sp.val (s.pc + 2), sp := ⟨s.sp.val + 1, Nat.succ_lt_succ h⟩ }
          npc := nnn.toNat }
    else .raise .stackOvf nnn.toNat

/-- RET (R79): underflow when sp = 0; else the popped address, to which nothing is added. -/
def execRet (s : State) : Host.Outcome State Fault Refusal :=
  s.run .ret <|
    match s.sp with
    | ⟨0, _⟩     => .raise .stackUnf 0
    | ⟨k + 1, h⟩ =>
      .done
        { state := { s with sp := ⟨k, Nat.lt_of_succ_lt h⟩ }
          npc := (s.stack[k]'(Nat.lt_of_succ_lt_succ h)).toNat }

/-- JP V0, NNN (R80): the sum is not reduced (D30). -/
def execJpV0 (nnn : Imm12) (s : State) : Host.Outcome State Fault Refusal :=
  s.run (.jpV0 nnn) (.done { state := s, npc := nnn.toNat + (s.getV 0).toNat })

/-- SE VX, NN (R81). -/
def execSeImm (x : Reg) (nn : Byte) (s : State) : Host.Outcome State Fault Refusal :=
  s.run (.seImm x nn) (s.skipIf (s.getV x == nn))

/-- SNE VX, NN (R82). -/
def execSneImm (x : Reg) (nn : Byte) (s : State) : Host.Outcome State Fault Refusal :=
  s.run (.sneImm x nn) (s.skipIf (s.getV x != nn))

/-- SE VX, VY (R83). -/
def execSeReg (x y : Reg) (s : State) : Host.Outcome State Fault Refusal :=
  s.run (.seReg x y) (s.skipIf (s.getV x == s.getV y))

/-- SNE VX, VY (R84). -/
def execSneReg (x y : Reg) (s : State) : Host.Outcome State Fault Refusal :=
  s.run (.sneReg x y) (s.skipIf (s.getV x != s.getV y))

end Sys2Proof.Machine
end

