-- ==== Sys2Proof/Machine/IndexMemory.lean ====
section
/-! DEFINITION. The index register and the memory transfers (43_index_memory.md). -/

namespace Sys2Proof.Machine

/-- LD I, NNN (R103). -/
def execLdI (nnn : Imm12) (s : State) : Host.Outcome State Fault Refusal :=
  s.run (.ldI nnn) (s.advance { s with i := nnn.setWidth 16 })

/-- ADD I, VX (R104): 16-bit wraparound, no flag. -/
def execAddIVx (x : Reg) (s : State) : Host.Outcome State Fault Refusal :=
  s.run (.addIVx x) (s.advance { s with i := s.i + (s.getV x).setWidth 16 })

/-- LD F, VX (R105): the formula for every V[X], above 15 too (D14). -/
def execLdFVx (x : Reg) (s : State) : Host.Outcome State Fault Refusal :=
  s.run (.ldFVx x) (s.advance { s with i := (s.getV x).setWidth 16 * 5 })

/-- LD B, VX (R106). -/
def execLdBVx (x : Reg) (s : State) : Host.Outcome State Fault Refusal :=
  s.run (.ldBVx x) (guarded (s.writeFailing 3) (s.advance (s.putBytes s.baseAddr (bcdDigits (s.getV x)))))

/-- LD [I], VX (R107). -/
def execLdMemVx (x : Reg) (s : State) : Host.Outcome State Fault Refusal :=
  s.run (.ldMemVx x) <|
    guarded (s.writeFailing (x.val + 1))
      (s.advance { s.putBytes s.baseAddr (s.regsUpTo x) with i := s.blockI x })

/-- LD VX, [I] (R108). -/
def execLdVxMem (x : Reg) (s : State) : Host.Outcome State Fault Refusal :=
  s.run (.ldVxMem x) <|
    guarded (s.readFailing (x.val + 1)) (s.advance { s with v := s.loadedRegs x, i := s.blockI x })

end Sys2Proof.Machine
end

