-- ==== Sys2Proof/Machine/KeysTimers.lean ====
section
/-! DEFINITION. Keys and timers (45_timers_keys.md): the instructions. -/

namespace Sys2Proof.Machine

/-- SKP VX (R119): the latch is not consumed (D16). -/
def execSkp (x : Reg) (s : State) : Host.Outcome State Fault Refusal :=
  s.run (.skp x) (s.skipIf (s.keyMatches x))

/-- SKNP VX (R120). -/
def execSknp (x : Reg) (s : State) : Host.Outcome State Fault Refusal :=
  s.run (.sknp x) (s.skipIf (!s.keyMatches x))

/-- LD VX, K (R121): without a key the step waits at its own address; with one the key is consumed (D15). -/
def execLdVxK (x : Reg) (s : State) : Host.Outcome State Fault Refusal :=
  s.run (.ldVxK x) <|
    match s.pendingKey with
    | none   => .done { state := s, npc := s.pc.toNat, wait := true }
    | some k => s.advance { s.setV x (k.setWidth 8) with pendingKey := none }

/-- LD VX, DT (R122). -/
def execLdVxDt (x : Reg) (s : State) : Host.Outcome State Fault Refusal :=
  s.run (.ldVxDt x) (s.advance (s.setV x s.dt))

/-- LD DT, VX (R123). -/
def execLdDtVx (x : Reg) (s : State) : Host.Outcome State Fault Refusal :=
  s.run (.ldDtVx x) (.done { state := { s with dt := s.getV x }, npc := s.pc.toNat + 2, timersWritten := true })

/-- LD ST, VX (R124). -/
def execLdStVx (x : Reg) (s : State) : Host.Outcome State Fault Refusal :=
  s.run (.ldStVx x) (.done { state := { s with st := s.getV x }, npc := s.pc.toNat + 2, timersWritten := true })

end Sys2Proof.Machine
end

