-- ==== Sys2Proof/Machine/Commands.lean ====
section
/-! DEFINITION. The driver's five commands (40_step_cycle.md R62) and the order they come in. -/

namespace Sys2Proof.Machine

/-! ## STEP -/

/-- FETCH and DECODE, then the instruction (R66). The pc check is for hand-built states only (R68, D31). -/
def State.fetchExecute (s : State) : Host.Outcome State Fault Refusal :=
  if pcLegal s.pc.toNat then
    match decode s.fetchWord with
    | .ok i    => exec i s
    | .error _ => .next (s.unknownOp s.fetchWord)
  else .next (s.takeFault [] .addrPc 0 s.pc.toNat)

/-- The value a key report latches, if it has one: `none`, or a code 0..15 (R127). -/
def keyReport : Option Nat → Option (Option Nibble)
  | none   => some none
  | some k => if k < 16 then some (some (BitVec.ofNat 4 k)) else none

/-- REPORT_KEY (R127); STEP's key event latches in the same way (R67). -/
def State.reportKey (s : State) (k : Option Nat) : Host.Outcome State Fault Refusal :=
  match keyReport k with
  | some key => .next { s with pendingKey := key }
  | none     => .refused .badKeyCode

/-- STEP(key_event) (R66): LATCH, then the fetch and all that follows. -/
def State.stepCommand (s : State) : KeyEvent → Host.Outcome State Fault Refusal
  | .absent    => s.fetchExecute
  | .present k =>
    match s.reportKey k with
    | .next t    => t.fetchExecute
    | .fault f   => .fault f
    | .refused r => .refused r

/-! ## TICK and CLEAR_DIRTY -/

/-- A timer's decrement, saturating at 0 (45_timers_keys.md R125). -/
def countDown (b : Byte) : Byte := if b = 0 then 0 else b - 1

/-- TICK (R125). -/
def State.tick (s : State) : State := { s with dt := countDown s.dt, st := countDown s.st }

/-- CLEAR_DIRTY (R129). -/
def State.clearDirty (s : State) : State := { s with drawDirty := false }

/-! ## INIT -/

/-- A successful INIT (70_reset_and_hazards.md R145): the font and the zeros are what an unlisted address reads as. The
parameters, the driver's later commands and the number of draws made are no part of the machine it creates (assumption
log 8). -/
def State.initWith (s : State) (rom : List Byte) : State :=
  { s with
    mem := Memory.writeAll (unlisted s.cfg) [] 0x200 rom
    v := Vector.replicate 16 0
    i := 0
    pc := 0x200
    sp := 0
    stack := Vector.replicate 16 0
    dt := 0
    st := 0
    disp := Vector.replicate 64 (Vector.replicate 32 false)
    drawDirty := false
    pendingKey := none
    waitingKey := false
    fsr := 0
    fcause := 0
    fpc := 0
    fop := 0
    faddr := 0
    initialised := true
    response := .initOk }

/-- INIT(rom): LOAD_ERROR for an absent ROM or one above 3584 bytes, which writes no field (R146). -/
def State.init (s : State) (rom : Option (List Byte)) : State :=
  match rom with
  | some bytes => if bytes.length > 3584 then { s with response := .initLoadError } else s.initWith bytes
  | none       => { s with response := .initLoadError }

/-! ## Commands -/

/-- A command other than INIT has a meaning only after a successful INIT (10_state.md R28). -/
def State.whenInitialised (s : State) (o : Host.Outcome State Fault Refusal) : Host.Outcome State Fault Refusal :=
  if s.initialised then o else .refused .notInitialised

/-- One command, to its end (R62, R63). -/
def State.command (s : State) : Command → Host.Outcome State Fault Refusal
  | .init rom    => .next (s.init rom)
  | .step event  => s.whenInitialised (s.stepCommand event)
  | .reportKey k => s.whenInitialised (s.reportKey k)
  | .tick        => s.whenInitialised (.next s.tick)
  | .clearDirty  => s.whenInitialised (.next s.clearDirty)

/-- The next command the driver has: the first one listed, or STEP without a key event if none is (assumption log 3). -/
def State.nextCommand (s : State) : Command := s.driver.head?.getD (.step .absent)

/-- The driver's next command is taken from its list and executed. -/
def State.drive (s : State) : Host.Outcome State Fault Refusal :=
  State.command { s with driver := s.driver.tail } s.nextCommand

/-- The bytes placed where the next STEP fetches, and that STEP made the next command (assumption log 7). -/
def State.placeNext (s : State) (bytes : List Byte) : State :=
  { s.putBytes s.pc.toNat bytes with initialised := true, driver := [] }

end Sys2Proof.Machine
end

