-- ==== Sys2Proof/Machine/Step.lean ====
section
/-! DEFINITION. The step of the machine: one command of the driver (40_step_cycle.md R62, R63; 20_memory.md R44). -/

namespace Sys2Proof.Machine

/-- One step: the driver's next command, executed to its end. -/
def step (s : State) : Host.Outcome State Fault Refusal := s.drive

/-- The instruction word of a table row placed where the next step fetches. -/
def State.withFetchWord (s : State) (nbits w : Nat) : State := s.placeNext (tableBytes nbits w)

end Sys2Proof.Machine
end

