-- ==== Sys2Proof/Safety.lean ====
section
/-! DEFINITION. What counts as a safe run, and the terms the statements are written in. -/

namespace Sys2Proof.Machine

/-! ## Final states and fault-free states -/

/-- No fault or report since INIT (10_state.md R26); the premise D4 and D9 give a claim. -/
def State.FaultFree (s : State) : Prop := s.fsr = 0

/-- A final state (70_reset_and_hazards.md R151): the word at pc is a jump to itself. -/
def State.Final (s : State) : Prop :=
  s.initialised = true ∧ s.FaultFree ∧ s.waitingKey = false ∧ s.fetchWord = 0x1000 ||| s.pc

/-! ## Where an instruction commits -/

/-- From this pc the core may advance by k: the next pc is even and at most 0xFFE (40_step_cycle.md R71). -/
def State.CanAdvance (s : State) (k : Nat) : Prop := s.pc.toNat % 2 = 0 ∧ s.pc.toNat + k ≤ 0xFFE

/-- An address `MemRead` accepts (20_memory.md R40). -/
def Readable (a : Nat) : Prop := a ≤ 0xFFF

/-- An address `MemWrite` accepts (20_memory.md R41). -/
def Writable (p : FontWritePolicy) (a : Nat) : Prop := a ≤ 0xFFF ∧ (p = .allow ∨ 0x50 ≤ a)

/-- The cause of a write that R41 refuses. -/
def writeCause (a : Nat) : Cause := if a > 0xFFF then .addrMem else .fontWrite

/-! ## The two ends of a step -/

/-- The effects record (R64) of a committed step, by what it tells of the instruction. -/
def committedEffects (displayChanged timersWritten waiting : Bool) : Response :=
  .effects { committed := true, displayChanged := displayChanged, timersWritten := timersWritten,
             waitingForKey := waiting, halted := false, reports := [] }

/-- The working copy `t` committed at a pc, `waiting_key` 0, nothing to tell but that it was committed (R64, R72, R74). -/
def State.committedAt (t : State) (pc : Word) : State :=
  { t with pc := pc, waitingKey := false, response := committedEffects false false false }

/-- The same for an instruction that sets `draw_dirty`, if `changed`. -/
def State.drawnAt (t : State) (pc : Word) (changed : Bool) : State :=
  { t with pc := pc, waitingKey := false, response := committedEffects changed false false }

/-- The same for FX15 and FX18. -/
def State.timedAt (t : State) (pc : Word) : State :=
  { t with pc := pc, waitingKey := false, response := committedEffects false true false }

/-- `t` is `s` but for the fields R133 names for a suppressed step: the fault records, `waiting_key`, and what is
returned to the driver. -/
def OnlyFaultRecords (s t : State) : Prop :=
  t = { s with fsr := t.fsr, fcause := t.fcause, fpc := t.fpc, fop := t.fop, faddr := t.faddr,
               waitingKey := t.waitingKey, response := t.response }

/-- Recording of one cause (R132): the bit is set, and the first-fault registers are written only while FCAUSE = 0. -/
def Recorded (s t : State) (c : Cause) (op : Word) (info : Nat) : Prop :=
  t.fsr = s.fsr ||| c.mask ∧
  (s.fcause = 0 → t.fcause = c.code ∧ t.fpc = s.pc ∧ t.fop = op ∧ t.faddr = BitVec.ofNat 17 info) ∧
  (s.fcause ≠ 0 → t.fcause = s.fcause ∧ t.fpc = s.fpc ∧ t.fop = s.fop ∧ t.faddr = s.faddr)

/-- `t` is `s` after a step that a fatal fault suppressed (R72, R132, R133), reporting that fault alone. -/
def Suppressed (s t : State) (c : Cause) (op : Word) (info : Nat) : Prop :=
  OnlyFaultRecords s t ∧ Recorded s t c op info ∧ t.waitingKey = false ∧
  t.response = .effects { committed := false, displayChanged := false, timersWritten := false, waitingForKey := false,
                          halted := false, reports := [c] }

/-- A skip (41_control_flow.md R81): it goes to pc + 4 if `taken` and to pc + 2 if not; where that is above 0xFFE the step
is suppressed with ADDR_PC of it; where it is not the step commits there and changes nothing else. -/
def State.SkipsIf (s : State) (i : Instr) (taken : Prop) [Decidable taken] : Prop :=
  (s.pc.toNat + (if taken then 4 else 2) ≤ 0xFFE →
    exec i s = .next (s.committedAt (s.pc + if taken then 4 else 2))) ∧
  (s.pc.toNat + (if taken then 4 else 2) > 0xFFE → ∃ t,
    exec i s = .next t ∧ Suppressed s t .addrPc (encode i) (s.pc.toNat + if taken then 4 else 2))

/-! ## The display -/

/-- Some sprite bit that is 1 lands on this pixel in a draw at (x0, y0) of `n` rows from I (44_display.md R110, R111). -/
def State.SpriteHits (s : State) (x0 y0 n : Nat) (px : Fin 64) (py : Fin 32) : Prop :=
  ∃ r, r < n ∧ ∃ j, j < 8 ∧ (x0 + j) % 64 = px.val ∧ (y0 + r) % 32 = py.val ∧
    (s.byteAt (s.i.toNat + r)).getLsbD (7 - j) = true

/-! ## What an instruction may write -/

/-- The registers an instruction may write: the table of 10_state.md R13, VF in its middle column, V0..VX in its last. -/
def destRegs : Instr → List Reg
  | .cls | .ret | .jp _ | .call _ | .seImm _ _ | .sneImm _ _ | .seReg _ _ | .sneReg _ _ => []
  | .ldI _ | .jpV0 _ | .skp _ | .sknp _ | .ldDtVx _ | .ldStVx _ | .addIVx _ | .ldFVx _ | .ldBVx _ | .ldMemVx _ => []
  | .ldImm x _ | .addImm x _ | .ldReg x _ | .orReg x _ | .andReg x _ | .xorReg x _ => [x]
  | .rnd x _ | .ldVxDt x | .ldVxK x => [x]
  | .addReg x _ | .subReg x _ | .shr x _ | .subnReg x _ | .shl x _ => [x, vf]
  | .drw _ _ _ => [vf]
  | .ldVxMem x => (List.finRange 16).filter (· ≤ x)

/-! ## Invariants -/

/-- A return address CALL can have pushed (41_control_flow.md R78, R79): even, at most 0x1000. -/
def ReturnAddress (a : Word) : Prop := a.toNat % 2 = 0 ∧ a.toNat ≤ 0x1000

/-- FSR and FCAUSE tell the same story (R26, R27): nothing recorded, or the first cause is one of 1..6 and its bit is
set. -/
def State.FaultRecordsAgree (s : State) : Prop :=
  (s.fsr = 0 ∧ s.fcause = 0) ∨ ∃ c : Cause, c ≠ .loadError ∧ s.fcause = c.code ∧ s.fsr &&& c.mask = c.mask

/-- What holds between any two commands of an initialised core. -/
structure State.Inv (s : State) : Prop where
  /-- R17: pc is even and at most 0xFFE -/
  pcEven     : s.pc.toNat % 2 = 0
  pcInRange  : s.pc.toNat ≤ 0xFFE
  /-- memory is canonical and lists only addresses that exist (R33) -/
  memWf      : Memory.wf (unlisted s.cfg) s.mem = true
  /-- R26: bits 6 and 7 of FSR read 0 -/
  fsrTop     : s.fsr &&& 0xC0 = 0
  faults     : s.FaultRecordsAgree
  /-- the live part of the stack holds return addresses (R19, R78) -/
  stackOk    : ∀ k : Fin 16, k.val < s.sp.val → ReturnAddress s.stack[k]

/-- Every key the driver will report is `none` or 0..15 (R127). -/
def LegalKey : Option Nat → Prop
  | none   => True
  | some k => k ≤ 15

/-- A command with a meaning once the core is initialised (R62, R127). -/
def Command.Legal : Command → Prop
  | .step (.present k) => LegalKey k
  | .reportKey k       => LegalKey k
  | _                  => True

end Sys2Proof.Machine
end

