-- ==== Sys2Proof/Certificates/Slice0/Obligations.lean ====
section
/-! DEFINITION. The statements for the provers. Each docstring names the rule of spec/ it formalises. A result statement
gives the whole next state, so it is the instruction's frame as well: a field that its record update does not name, every
byte of memory among them, is unchanged. `State.committedAt t pc` is the working copy `t` committed at `pc` with
`waiting_key` 0 and the plain effects record of R64. -/

open Sys2Proof Sys2Proof.Machine

/-! ## Encoding (30_encoding.md) -/

/-- R55, R57: every instruction, with every operand at every value, is decoded from its own word. -/
def Obligations.DecodeOfEncodeIsTheInstruction : Prop :=
  ∀ i : Instr, decode (encode i) = .ok i

/-- R57, R60: a word is the encoding of the instruction it decodes to, so no two words are one instruction. -/
def Obligations.EncodeOfDecodeIsTheWord : Prop :=
  ∀ (w : Word) (i : Instr), decode w = .ok i → encode i = w

/-- R55, R57: the decoder and the opcode map, written apart, agree: a word decodes exactly if some row admits it, that row
is the decoded instruction's, and no word is admitted by two rows. -/
def Obligations.DecoderAgreesWithOpcodeMap : Prop :=
  ∀ w : Word,
    (wordWellFormed w = true ↔ ∃ i, decode w = .ok i) ∧
    (∀ i, decode w = .ok i → i.row.admits w = true) ∧
    (∀ r₁ ∈ opcodeMap, ∀ r₂ ∈ opcodeMap, r₁.admits w = true → r₂.admits w = true → r₁ = r₂)

/-- R58: the words that decode to nothing are exactly its six groups (by value: w / 4096 is the class, w mod 256 is NN,
w mod 16 is N). -/
def Obligations.UnknownWordsAreTheSixGroups : Prop :=
  ∀ w : Word, (∃ e, decode w = .error e) ↔
    (w.toNat / 4096 = 0x0 ∧ w.toNat ≠ 0x00E0 ∧ w.toNat ≠ 0x00EE) ∨
    (w.toNat / 4096 = 0x5 ∧ w.toNat % 16 ≠ 0) ∨
    (w.toNat / 4096 = 0x8 ∧ w.toNat % 16 ∈ [0x8, 0x9, 0xA, 0xB, 0xC, 0xD, 0xF]) ∨
    (w.toNat / 4096 = 0x9 ∧ w.toNat % 16 ≠ 0) ∨
    (w.toNat / 4096 = 0xE ∧ w.toNat % 256 ∉ [0x9E, 0xA1]) ∨
    (w.toNat / 4096 = 0xF ∧ w.toNat % 256 ∉ [0x07, 0x0A, 0x15, 0x18, 0x1E, 0x29, 0x33, 0x55, 0x65])

/-- R55: one word of each family, written out from its pattern. -/
def Obligations.SampleWordsDecode : Prop :=
  decode 0b0000000011100000 = .ok .cls ∧
  decode 0b0010_101111001101 = .ok (.call 0xBCD) ∧
  decode 0b1000_0011_1010_1110 = .ok (.shl 3 10) ∧
  decode 0b0111_1111_00000001 = .ok (.addImm 15 0x01) ∧
  decode 0b1111_0010_01010101 = .ok (.ldMemVx 2) ∧
  decode 0b1101_1010_1011_0101 = .ok (.drw 10 11 5) ∧
  decode 0b1111_0011_00001010 = .ok (.ldVxK 3)

/-! ## Register loads, arithmetic, logic, shifts, random (42_alu.md) -/

/-- R90, R91: 6XNN and 7XNN. V[X] <- NN and V[X] <- (V[X] + NN) mod 256, for every X, VF too; no flag. -/
def Obligations.ImmediateLoadAndAdd : Prop :=
  ∀ (x : Reg) (nn : Byte) (s : State),
    decode (wordXNN 0x6 x nn) = .ok (.ldImm x nn) ∧ decode (wordXNN 0x7 x nn) = .ok (.addImm x nn) ∧
    (s.CanAdvance 2 →
      exec (.ldImm x nn) s = .next ({ s with v := s.v.set x nn }.committedAt (s.pc + 2)) ∧
      exec (.addImm x nn) s = .next
        ({ s with v := s.v.set x (BitVec.ofNat 8 ((s.v[x].toNat + nn.toNat) % 256)) }.committedAt (s.pc + 2)))

/-- R92 to R95: 8XY0, 8XY1, 8XY2, 8XY3. Copy, OR, AND, XOR; no flag. -/
def Obligations.CopyAndLogicWriteOnlyVX : Prop :=
  ∀ (x y : Reg) (s : State),
    decode (wordXYN 0x8 x y 0x0) = .ok (.ldReg x y) ∧ decode (wordXYN 0x8 x y 0x1) = .ok (.orReg x y) ∧
    decode (wordXYN 0x8 x y 0x2) = .ok (.andReg x y) ∧ decode (wordXYN 0x8 x y 0x3) = .ok (.xorReg x y) ∧
    (s.CanAdvance 2 →
      exec (.ldReg x y) s = .next ({ s with v := s.v.set x s.v[y] }.committedAt (s.pc + 2)) ∧
      exec (.orReg x y) s = .next ({ s with v := s.v.set x (s.v[x] ||| s.v[y]) }.committedAt (s.pc + 2)) ∧
      exec (.andReg x y) s = .next ({ s with v := s.v.set x (s.v[x] &&& s.v[y]) }.committedAt (s.pc + 2)) ∧
      exec (.xorReg x y) s = .next ({ s with v := s.v.set x (s.v[x] ^^^ s.v[y]) }.committedAt (s.pc + 2)))

/-- R96: 8XY4. The sum modulo 256 into V[X], then the carry into VF; both operands are read first. -/
def Obligations.AddRegSetsCarry : Prop :=
  ∀ (x y : Reg) (s : State),
    decode (wordXYN 0x8 x y 0x4) = .ok (.addReg x y) ∧
    (s.CanAdvance 2 →
      exec (.addReg x y) s = .next
        ({ s with v := (s.v.set x (BitVec.ofNat 8 ((s.v[x].toNat + s.v[y].toNat) % 256))).set vf
                         (if s.v[x].toNat + s.v[y].toNat > 255 then 1 else 0) }.committedAt (s.pc + 2)))

/-- R97, R99: 8XY5 and 8XY7. V[X] - V[Y] and V[Y] - V[X] modulo 256 into V[X], then VF = 1 exactly if there is no borrow,
equal operands among them (the spec's decision D10). -/
def Obligations.SubtractionsSetNoBorrow : Prop :=
  ∀ (x y : Reg) (s : State),
    decode (wordXYN 0x8 x y 0x5) = .ok (.subReg x y) ∧ decode (wordXYN 0x8 x y 0x7) = .ok (.subnReg x y) ∧
    (s.CanAdvance 2 →
      exec (.subReg x y) s = .next
        ({ s with v := (s.v.set x (BitVec.ofNat 8 ((s.v[x].toNat + 256 - s.v[y].toNat) % 256))).set vf
                         (if s.v[x].toNat ≥ s.v[y].toNat then 1 else 0) }.committedAt (s.pc + 2)) ∧
      exec (.subnReg x y) s = .next
        ({ s with v := (s.v.set x (BitVec.ofNat 8 ((s.v[y].toNat + 256 - s.v[x].toNat) % 256))).set vf
                         (if s.v[y].toNat ≥ s.v[x].toNat then 1 else 0) }.committedAt (s.pc + 2)))

/-- R98, R100: 8XY6 and 8XYE. The source (V[X] or V[Y] by SHIFT_SOURCE) halved, or doubled modulo 256, into V[X], then its
bit 0, or bit 7, into VF. -/
def Obligations.ShiftsMoveTheLostBitIntoVF : Prop :=
  ∀ (x y : Reg) (s : State) (a : Byte), (a = if s.cfg.shiftSource = .vx then s.v[x] else s.v[y]) →
    decode (wordXYN 0x8 x y 0x6) = .ok (.shr x y) ∧ decode (wordXYN 0x8 x y 0xE) = .ok (.shl x y) ∧
    (s.CanAdvance 2 →
      exec (.shr x y) s = .next
        ({ s with v := (s.v.set x (BitVec.ofNat 8 (a.toNat / 2))).set vf (BitVec.ofNat 8 (a.toNat % 2)) }.committedAt
          (s.pc + 2)) ∧
      exec (.shl x y) s = .next
        ({ s with v := (s.v.set x (BitVec.ofNat 8 (a.toNat * 2 % 256))).set vf (BitVec.ofNat 8 (a.toNat / 128)) }.committedAt
          (s.pc + 2)))

/-- R101: V[X] <- r & NN for this step's draw r, the free value Config.randomByte, of which nothing is known. That the
draws are numbered by State.draws is the model's choice (assumption log 2). -/
def Obligations.RndMasksAFreeByte : Prop :=
  ∀ (x : Reg) (nn : Byte) (s : State), s.CanAdvance 2 →
    exec (.rnd x nn) s = .next
      ({ s with v := s.v.set x (Config.randomByte s.draws &&& nn), draws := s.draws + 1 }.committedAt (s.pc + 2))

/-! ## Control transfer (41_control_flow.md) -/

/-- R77: 1NNN. A jump to an even address commits there and changes nothing else; an odd one suppresses the step with
ADDR_PC(NNN). -/
def Obligations.JpJumpsOrFaults : Prop :=
  ∀ (nnn : Imm12) (s : State),
    decode (wordA 0x1 nnn) = .ok (.jp nnn) ∧
    (nnn.toNat % 2 = 0 → exec (.jp nnn) s = .next (s.committedAt (nnn.setWidth 16))) ∧
    (nnn.toNat % 2 = 1 → ∃ t, exec (.jp nnn) s = .next t ∧ Suppressed s t .addrPc (wordA 0x1 nnn) nnn.toNat)

/-- R78: 2NNN. CALL stores pc + 2 in the next free slot, moves sp on by one and jumps; with an odd target the step is
suppressed with ADDR_PC(NNN), nothing pushed; with sp = 16 it is suppressed with STACK_OVF(NNN), for an odd NNN too. -/
def Obligations.CallPushesOrFaults : Prop :=
  ∀ (nnn : Imm12) (s : State),
    decode (wordA 0x2 nnn) = .ok (.call nnn) ∧
    (∀ h : s.sp.val < 16, nnn.toNat % 2 = 0 → ∃ t, exec (.call nnn) s = .next t ∧ t.sp.val = s.sp.val + 1 ∧
      t = ({ s with stack := s.stack.set s.sp.val (s.pc + 2) h, sp := t.sp }).committedAt (nnn.setWidth 16)) ∧
    (s.sp.val < 16 → nnn.toNat % 2 = 1 → ∃ t,
      exec (.call nnn) s = .next t ∧ Suppressed s t .addrPc (wordA 0x2 nnn) nnn.toNat) ∧
    (s.sp = 16 → ∃ t, exec (.call nnn) s = .next t ∧ Suppressed s t .stackOvf (wordA 0x2 nnn) nnn.toNat)

/-- R79: 00EE. RET moves sp back by one and goes to the popped address, adding nothing; the entry is not cleared. A popped
address that is odd or above 0xFFE suppresses the step with ADDR_PC of it, sp not decremented; sp = 0 with STACK_UNF. -/
def Obligations.RetPopsOrFaults : Prop :=
  decode 0x00EE = .ok .ret ∧
  ∀ s : State,
    (∀ k : Fin 16, s.sp.val = k.val + 1 → s.stack[k].toNat % 2 = 0 → s.stack[k].toNat ≤ 0xFFE → ∃ t,
      exec .ret s = .next t ∧ t.sp.val = k.val ∧ t = { s with sp := t.sp }.committedAt s.stack[k]) ∧
    (∀ k : Fin 16, s.sp.val = k.val + 1 → (s.stack[k].toNat % 2 = 1 ∨ s.stack[k].toNat > 0xFFE) → ∃ t,
      exec .ret s = .next t ∧ Suppressed s t .addrPc 0x00EE s.stack[k].toNat) ∧
    (s.sp = 0 → ∃ t, exec .ret s = .next t ∧ Suppressed s t .stackUnf 0x00EE 0)

/-- R78, R79: a routine that leaves sp and the stack as CALL left them returns to the word after the CALL, with the
caller's sp. -/
def Obligations.CallThenRetComesBack : Prop :=
  ∀ (nnn : Imm12) (s t m : State), s.sp.val < 16 → s.CanAdvance 2 → nnn.toNat % 2 = 0 →
    exec (.call nnn) s = .next t → m.sp = t.sp → m.stack = t.stack → ∃ u,
    exec .ret m = .next u ∧ u.pc.toNat = s.pc.toNat + 2 ∧ u.sp = s.sp ∧ u.stack = m.stack

/-- R80: BNNN. The target is NNN + V0, not reduced; it commits if the sum is even and at most 0xFFE, else the step is
suppressed with ADDR_PC of the sum. -/
def Obligations.JpV0JumpsOrFaults : Prop :=
  ∀ (nnn : Imm12) (s : State) (sum : Nat), sum = nnn.toNat + s.v[0].toNat →
    decode (wordA 0xB nnn) = .ok (.jpV0 nnn) ∧
    (sum % 2 = 0 → sum ≤ 0xFFE → exec (.jpV0 nnn) s = .next (s.committedAt (BitVec.ofNat 16 sum))) ∧
    (sum % 2 = 1 ∨ sum > 0xFFE → ∃ t, exec (.jpV0 nnn) s = .next t ∧ Suppressed s t .addrPc (wordA 0xB nnn) sum)

/-- R81 to R84: 3XNN, 4XNN, 5XY0, 9XY0, from every even pc. `SkipsIf` says where each commits and where it faults. -/
def Obligations.SkipsTestRegisters : Prop :=
  ∀ (x y : Reg) (nn : Byte) (s : State),
    decode (wordXNN 0x3 x nn) = .ok (.seImm x nn) ∧ decode (wordXNN 0x4 x nn) = .ok (.sneImm x nn) ∧
    decode (wordXYN 0x5 x y 0x0) = .ok (.seReg x y) ∧ decode (wordXYN 0x9 x y 0x0) = .ok (.sneReg x y) ∧
    (s.pc.toNat % 2 = 0 →
      s.SkipsIf (.seImm x nn) (s.v[x] = nn) ∧ s.SkipsIf (.sneImm x nn) (s.v[x] ≠ nn) ∧
      s.SkipsIf (.seReg x y) (s.v[x] = s.v[y]) ∧ s.SkipsIf (.sneReg x y) (s.v[x] ≠ s.v[y]))

/-! ## Index register and memory (43_index_memory.md) -/

/-- R103 to R105: ANNN, FX1E, FX29. I <- NNN; I <- (I + V[X]) mod 65536 without a flag; I <- V[X] * 5 for every V[X]. -/
def Obligations.IndexRegisterWrites : Prop :=
  ∀ (nnn : Imm12) (x : Reg) (s : State),
    decode (wordA 0xA nnn) = .ok (.ldI nnn) ∧ decode (wordXNN 0xF x 0x1E) = .ok (.addIVx x) ∧
    decode (wordXNN 0xF x 0x29) = .ok (.ldFVx x) ∧
    (s.CanAdvance 2 →
      exec (.ldI nnn) s = .next ({ s with i := nnn.setWidth 16 }.committedAt (s.pc + 2)) ∧
      exec (.addIVx x) s = .next
        ({ s with i := BitVec.ofNat 16 ((s.i.toNat + s.v[x].toNat) % 65536) }.committedAt (s.pc + 2)) ∧
      exec (.ldFVx x) s = .next ({ s with i := BitVec.ofNat 16 (s.v[x].toNat * 5) }.committedAt (s.pc + 2)))

/-- R106: FX33 stores hundreds, tens and ones at I, I + 1, I + 2 and changes nothing else. -/
def Obligations.BcdIsStored : Prop :=
  ∀ (x : Reg) (s : State), s.CanAdvance 2 → Memory.wf (unlisted s.cfg) s.mem = true →
    (∀ k, k < 3 → Writable s.cfg.fontWritePolicy (s.i.toNat + k)) → ∃ t,
    exec (.ldBVx x) s = .next t ∧
    t.byteAt s.i.toNat = BitVec.ofNat 8 (s.v[x].toNat / 100) ∧
    t.byteAt (s.i.toNat + 1) = BitVec.ofNat 8 (s.v[x].toNat / 10 % 10) ∧
    t.byteAt (s.i.toNat + 2) = BitVec.ofNat 8 (s.v[x].toNat % 10) ∧
    (∀ a, ¬(s.i.toNat ≤ a ∧ a < s.i.toNat + 3) → t.byteAt a = s.byteAt a) ∧
    t = { s with mem := t.mem }.committedAt (s.pc + 2)

/-- R107: FX55 stores V0..VX at I, I + 1, ...; I moves past the range exactly if BLOCK_I_MODE is ADVANCE; nothing else
changes. -/
def Obligations.RegistersAreStored : Prop :=
  ∀ (x : Reg) (s : State), s.CanAdvance 2 → Memory.wf (unlisted s.cfg) s.mem = true →
    (∀ k, k ≤ x.val → Writable s.cfg.fontWritePolicy (s.i.toNat + k)) → ∃ t,
    exec (.ldMemVx x) s = .next t ∧
    (∀ k : Fin 16, k ≤ x → t.byteAt (s.i.toNat + k.val) = s.v[k]) ∧
    (∀ a, ¬(s.i.toNat ≤ a ∧ a ≤ s.i.toNat + x.val) → t.byteAt a = s.byteAt a) ∧
    t.i.toNat = (if s.cfg.blockIMode = .advance then s.i.toNat + x.val + 1 else s.i.toNat) ∧
    t = { s with mem := t.mem, i := t.i }.committedAt (s.pc + 2)

/-- R108: FX65 loads V0..VX from I, I + 1, ...; the other registers and memory stay; I as in R107. -/
def Obligations.RegistersAreLoaded : Prop :=
  ∀ (x : Reg) (s : State), s.CanAdvance 2 → (∀ k, k ≤ x.val → Readable (s.i.toNat + k)) → ∃ t,
    exec (.ldVxMem x) s = .next t ∧
    (∀ k : Fin 16, t.v[k] = if k ≤ x then s.byteAt (s.i.toNat + k.val) else s.v[k]) ∧
    t.i.toNat = (if s.cfg.blockIMode = .advance then s.i.toNat + x.val + 1 else s.i.toNat) ∧
    t = { s with v := t.v, i := t.i }.committedAt (s.pc + 2)

/-- R107, R108: what FX55 stored, a later FX65 at the same I loads, whatever the registers hold by then. -/
def Obligations.StoredRegistersLoadBack : Prop :=
  ∀ (x : Reg) (s t u : State), Memory.wf (unlisted s.cfg) s.mem = true → t.response = committedEffects false false false →
    exec (.ldMemVx x) s = .next t → u.mem = t.mem → u.cfg = t.cfg → u.i = s.i → u.CanAdvance 2 → ∃ w,
    exec (.ldVxMem x) u = .next w ∧ ∀ k : Fin 16, k ≤ x → w.v[k] = s.v[k]

/-- R42: the addresses of FX33, FX55, FX65 and DXYN are checked in order before any effect. If the k-th is the first that
fails (a write above 0xFFF or to a protected font byte, a read above 0xFFF), the step is suppressed and reports that address:
no byte, no register, no pixel and not I changes, and VF is not cleared. -/
def Obligations.FirstBadAddressFaults : Prop :=
  ∀ (x y : Reg) (n : Nibble) (s : State) (k : Nat),
    ((∀ j, j < k → Writable s.cfg.fontWritePolicy (s.i.toNat + j)) → ¬Writable s.cfg.fontWritePolicy (s.i.toNat + k) →
      (k < 3 → ∃ t, exec (.ldBVx x) s = .next t ∧
        Suppressed s t (writeCause (s.i.toNat + k)) (encode (.ldBVx x)) (s.i.toNat + k)) ∧
      (k ≤ x.val → ∃ t, exec (.ldMemVx x) s = .next t ∧
        Suppressed s t (writeCause (s.i.toNat + k)) (encode (.ldMemVx x)) (s.i.toNat + k))) ∧
    ((∀ j, j < k → Readable (s.i.toNat + j)) → ¬Readable (s.i.toNat + k) →
      (k ≤ x.val → ∃ t, exec (.ldVxMem x) s = .next t ∧ Suppressed s t .addrMem (encode (.ldVxMem x)) (s.i.toNat + k)) ∧
      (k < n.toNat → ∃ t, exec (.drw x y n) s = .next t ∧ Suppressed s t .addrMem (encode (.drw x y n)) (s.i.toNat + k)))

/-- R41, R36 (C10): under FONT_WRITE_POLICY = FAULT no instruction changes a byte of 0x000-0x04F, in any state. -/
def Obligations.FontIsNeverOverwritten : Prop :=
  ∀ (i : Instr) (s t : State), s.cfg.fontWritePolicy = .fault → exec i s = .next t →
    ∀ a, a < 0x50 → t.byteAt a = s.byteAt a

/-- R49: a word stored by FX55 at the next pc is the word the next step fetches. -/
def Obligations.StoredWordIsFetchedNext : Prop :=
  ∀ (x : Reg) (s t : State) (k : Fin 15), Memory.wf (unlisted s.cfg) s.mem = true → exec (.ldMemVx x) s = .next t →
    t.response = committedEffects false false false → t.pc.toNat = s.i.toNat + k.val → k.val + 1 ≤ x.val →
    t.fetchWord = s.v[k.val] ++ s.v[k.val + 1]

/-! ## Display (44_display.md) -/

/-- R109: 00E0. Every pixel 0 and draw_dirty 1, also when the display was clear; nothing else changes. That the effects
record's display_changed is 1 also when draw_dirty was 1 already is the model's reading of R64 (assumption log 5). -/
def Obligations.ClsClearsAndSetsDirty : Prop :=
  decode 0x00E0 = .ok .cls ∧
  ∀ s : State, s.CanAdvance 2 → ∃ t, exec .cls s = .next t ∧
    (∀ (px : Fin 64) (py : Fin 32), t.disp[px][py] = false) ∧
    t = { s with disp := t.disp, drawDirty := true }.drawnAt (s.pc + 2) true

/-- R110 to R114, R64: a draw whose rows can all be read flips exactly the pixels some sprite bit 1 lands on, each axis
wrapped (`SpriteHits`); VF is 1 if one of them was set and 0 otherwise, with X or Y = 15 too (the coordinate is then the old
VF, R113); draw_dirty becomes 1 if some row byte is not 0 and else keeps its value (R114); nothing else changes. R113 and
R114 are the spec's own inferences; that the effects record's display_changed is 1 also when draw_dirty was 1 already is the
model's reading of R64 (assumption log 5). -/
def Obligations.DrwDrawsTheSprite : Prop :=
  ∀ (x y : Reg) (n : Nibble) (s : State), s.CanAdvance 2 → (∀ k, k < n.toNat → Readable (s.i.toNat + k)) → ∃ t changed,
    exec (.drw x y n) s = .next t ∧
    (∀ (px : Fin 64) (py : Fin 32), t.disp[px][py] = true ↔
      ¬(s.disp[px][py] = true ↔ s.SpriteHits s.v[x].toNat s.v[y].toNat n.toNat px py)) ∧
    ((∃ px py, s.SpriteHits s.v[x].toNat s.v[y].toNat n.toNat px py ∧ s.disp[px][py] = true) → t.v[vf] = 1) ∧
    ((∀ px py, s.SpriteHits s.v[x].toNat s.v[y].toNat n.toNat px py → s.disp[px][py] = false) → t.v[vf] = 0) ∧
    (changed = true ↔ ∃ k, k < n.toNat ∧ s.byteAt (s.i.toNat + k) ≠ 0) ∧
    t = { s with disp := t.disp, v := s.v.set vf t.v[vf], drawDirty := s.drawDirty || changed }.drawnAt (s.pc + 2) changed

/-- R115: N = 0 draws nothing, reads no address, clears VF and keeps draw_dirty. -/
def Obligations.DrwOfHeightZero : Prop :=
  ∀ (x y : Reg) (s : State), s.CanAdvance 2 →
    exec (.drw x y 0) s = .next ({ s with v := s.v.set vf 0 }.committedAt (s.pc + 2))

/-- R116 (C7): the same sprite drawn again at the same origin restores the display, and then VF is 1 exactly if some
sprite bit 1 lands on a pixel that was clear before the first draw. -/
def Obligations.DrawingTwiceRestoresTheDisplay : Prop :=
  ∀ (x y : Reg) (n : Nibble) (s t : State), x ≠ vf → y ≠ vf → s.CanAdvance 4 →
    (∀ k, k < n.toNat → Readable (s.i.toNat + k)) → exec (.drw x y n) s = .next t → ∃ u,
    exec (.drw x y n) t = .next u ∧ u.disp = s.disp ∧
    (u.v[vf] = 1 ↔ ∃ px py, s.SpriteHits s.v[x].toNat s.v[y].toNat n.toNat px py ∧ s.disp[px][py] = false)

/-! ## Keys and timers (45_timers_keys.md) -/

/-- R119, R120: EX9E skips exactly if the latched key is V[X], EXA1 exactly if not, also with no key; the latch stays. -/
def Obligations.KeySkipsTestTheLatch : Prop :=
  ∀ (x : Reg) (s : State),
    decode (wordXNN 0xE x 0x9E) = .ok (.skp x) ∧ decode (wordXNN 0xE x 0xA1) = .ok (.sknp x) ∧
    (s.pc.toNat % 2 = 0 →
      s.SkipsIf (.skp x) (s.pendingKey.map BitVec.toNat = some s.v[x].toNat) ∧
      s.SkipsIf (.sknp x) (s.pendingKey.map BitVec.toNat ≠ some s.v[x].toNat))

/-- R121: FX0A. Without a key it commits at its own pc with waiting_key 1 and changes nothing else; with one it loads the
key into V[X], consumes it and goes on; at 0xFFE a step with a key is suppressed and the key not consumed. -/
def Obligations.KeyWaitStaysOrConsumesTheKey : Prop :=
  ∀ (x : Reg) (s : State),
    decode (wordXNN 0xF x 0x0A) = .ok (.ldVxK x) ∧
    (s.CanAdvance 0 → s.pendingKey = none →
      exec (.ldVxK x) s = .next { s with waitingKey := true, response := committedEffects false false true }) ∧
    (∀ k : Nibble, s.CanAdvance 2 → s.pendingKey = some k →
      exec (.ldVxK x) s = .next
        ({ s with v := s.v.set x (BitVec.ofNat 8 k.toNat), pendingKey := none }.committedAt (s.pc + 2))) ∧
    (∀ k : Nibble, s.pc = 0xFFE → s.pendingKey = some k → ∃ t,
      exec (.ldVxK x) s = .next t ∧ Suppressed s t .addrPc (wordXNN 0xF x 0x0A) 0x1000)

/-- R122 to R124: FX07, FX15, FX18. The timer reads and writes; the effects record tells of FX15 and FX18, and FX18 turns
sound_on (R21) on exactly if V[X] is not 0. -/
def Obligations.TimerAccess : Prop :=
  ∀ (x : Reg) (s : State),
    decode (wordXNN 0xF x 0x07) = .ok (.ldVxDt x) ∧ decode (wordXNN 0xF x 0x15) = .ok (.ldDtVx x) ∧
    decode (wordXNN 0xF x 0x18) = .ok (.ldStVx x) ∧
    (s.CanAdvance 2 →
      exec (.ldVxDt x) s = .next ({ s with v := s.v.set x s.dt }.committedAt (s.pc + 2)) ∧
      exec (.ldDtVx x) s = .next ({ s with dt := s.v[x] }.timedAt (s.pc + 2)) ∧
      exec (.ldStVx x) s = .next ({ s with st := s.v[x] }.timedAt (s.pc + 2)) ∧
      (({ s with st := s.v[x] }.timedAt (s.pc + 2)).soundOn = true ↔ s.v[x] ≠ 0))

/-- R125: TICK decrements each timer, saturating at 0, and changes nothing else; before INIT it is refused. -/
def Obligations.TickCountsDown : Prop :=
  ∀ s : State,
    (s.initialised = true →
      s.command .tick = .next { s with dt := BitVec.ofNat 8 (s.dt.toNat - 1), st := BitVec.ofNat 8 (s.st.toNat - 1) }) ∧
    (s.initialised = false → s.command .tick = .refused .notInitialised)

/-- R127, R129: REPORT_KEY of none or 0..15 writes the latch and nothing else, any other code is refused; CLEAR_DIRTY
clears draw_dirty and nothing else. -/
def Obligations.ReportKeyAndClearDirty : Prop :=
  ∀ s : State, s.initialised = true →
    s.command (.reportKey none) = .next { s with pendingKey := none } ∧
    (∀ k, k ≤ 15 → s.command (.reportKey (some k)) = .next { s with pendingKey := some (BitVec.ofNat 4 k) }) ∧
    (∀ k, 15 < k → s.command (.reportKey (some k)) = .refused .badKeyCode) ∧
    s.command .clearDirty = .next { s with drawDirty := false }

/-- R128: no step clears the latch but FX0A, and no TICK or CLEAR_DIRTY does. -/
def Obligations.TheLatchIsKeptUntilConsumed : Prop :=
  ∀ (s t : State) (c : Command), c ∈ [.step .absent, .tick, .clearDirty] → s.command c = .next t →
    t.pendingKey = s.pendingKey ∨
    (t.pendingKey = none ∧ c = .step .absent ∧ ∃ x, decode s.fetchWord = .ok (.ldVxK x))

/-! ## Reset and commands (70_reset_and_hazards.md, 40_step_cycle.md) -/

/-- R145, R146: after INIT with a ROM of at most 3584 bytes, from any state, memory holds the font, zeros, the ROM from
0x200 and zeros, and every other field of the machine its reset value. An absent ROM or a longer one is a load error, cause
code 7, and writes no field of the machine. That INIT keeps the parameters and the driver's later commands, and that a load
error keeps the number of draws, is the model's choice (assumption log 8); nothing is said of the draws after a success. -/
def Obligations.InitCreatesTheMachine : Prop :=
  Cause.loadError.code = 7 ∧
  ∀ (s : State) (rom : List Byte),
    (rom.length ≤ 3584 → ∃ t, s.command (.init (some rom)) = .next t ∧
      (∀ a : Fin 80, t.byteAt a.val = s.cfg.fontRom[a]) ∧
      (∀ a, 0x50 ≤ a → a < 0x200 → t.byteAt a = 0) ∧
      (∀ (k : Nat) (h : k < rom.length), t.byteAt (0x200 + k) = rom[k]) ∧
      (∀ a, 0x200 + rom.length ≤ a → a ≤ 0xFFF → t.byteAt a = 0) ∧
      t = { State.reset with mem := t.mem, cfg := s.cfg, driver := s.driver, draws := t.draws }) ∧
    (3584 < rom.length → s.command (.init (some rom)) = .next { s with response := .initLoadError }) ∧
    s.command (.init none) = .next { s with response := .initLoadError }

/-- R28: before a successful INIT every other command is refused. -/
def Obligations.CommandsBeforeInitAreRefused : Prop :=
  ∀ (s : State) (e : KeyEvent) (k : Option Nat), s.initialised = false →
    s.command (.step e) = .refused .notInitialised ∧ s.command (.reportKey k) = .refused .notInitialised ∧
    s.command .tick = .refused .notInitialised ∧ s.command .clearDirty = .refused .notInitialised

/-- R31, R147: the values after reset. -/
def Obligations.ResetValues : Prop :=
  State.reset.pc = 0x200 ∧ State.reset.i = 0 ∧ State.reset.sp = 0 ∧ (∀ x : Reg, State.reset.v[x] = 0) ∧
  (∀ k : Fin 16, State.reset.stack[k] = 0) ∧ State.reset.dt = 0 ∧ State.reset.st = 0 ∧
  (∀ (px : Fin 64) (py : Fin 32), State.reset.disp[px][py] = false) ∧ State.reset.pendingKey = none ∧
  State.reset.drawDirty = false ∧ State.reset.waitingKey = false ∧ State.reset.fsr = 0 ∧ State.reset.fcause = 0 ∧
  State.reset.fpc = 0 ∧ State.reset.fop = 0 ∧ State.reset.faddr = 0 ∧ State.reset.initialised = true ∧
  State.reset.byteAt 0x000 = 0xF0 ∧ State.reset.byteAt 0x04F = 0x80 ∧ State.reset.byteAt 0x050 = 0 ∧
  State.reset.byteAt 0x200 = 0

/-- R66, R68, R37: when the driver's next command is STEP without a key event, the core is initialised, pc is legal and
the big-endian word at pc decodes to i, the step is exec of i. That an empty list of commands stands for such STEPs is the
model's choice (assumption log 3). -/
def Obligations.StepRunsTheDecodedInstruction : Prop :=
  ∀ (s : State) (i : Instr), s.initialised = true → s.CanAdvance 0 →
    decode (s.byteAt s.pc.toNat ++ s.byteAt (s.pc.toNat + 1)) = .ok i →
    (s.driver = [] → step s = exec i s) ∧
    (∀ rest, s.driver = .step .absent :: rest → step s = exec i { s with driver := rest })

/-- R67: STEP with a key event is REPORT_KEY of that key and then STEP without one, so the latch keeps the key whether or
not the step commits. -/
def Obligations.KeyEventIsAReportBeforeTheStep : Prop :=
  ∀ (s m : State) (k : Option Nat) (rest : List Command),
    step { s with driver := .reportKey k :: .step .absent :: rest } = .next m →
    step { s with driver := .step (.present k) :: rest } = step m

/-- R73: an unknown word is reported and, if pc + 2 is legal, stepped over; nothing else changes. At 0xFFE it is reported and
then ADDR_PC(0x1000) suppresses the step; the first-fault registers keep the report. -/
def Obligations.UnknownWordIsReported : Prop :=
  ∀ (s : State) (e : DecodeError), s.initialised = true → decode s.fetchWord = .error e →
    (s.CanAdvance 2 → ∃ t,
      s.command (.step .absent) = .next t ∧ t.pc = s.pc + 2 ∧ t.waitingKey = false ∧ Recorded s t .unknownOp s.fetchWord 0 ∧
      t.response = .effects { committed := true, displayChanged := false, timersWritten := false, waitingForKey := false,
                              halted := false, reports := [.unknownOp] } ∧
      OnlyFaultRecords { s with pc := s.pc + 2 } t) ∧
    (s.pc = 0xFFE → ∃ t,
      s.command (.step .absent) = .next t ∧ OnlyFaultRecords s t ∧ t.fsr = s.fsr ||| 0x21 ∧
      (s.fcause = 0 → t.fcause = 6 ∧ t.fpc = 0xFFE ∧ t.fop = s.fetchWord ∧ t.faddr = 0) ∧
      (s.fcause ≠ 0 → t.fcause = s.fcause ∧ t.fpc = s.fpc ∧ t.fop = s.fop ∧ t.faddr = s.faddr) ∧ t.waitingKey = false ∧
      t.response = .effects { committed := false, displayChanged := false, timersWritten := false, waitingForKey := false,
                              halted := false, reports := [.unknownOp, .addrPc] })

/-- R68: a pc that is odd or above 0xFFE (a hand-built state) suppresses the step with ADDR_PC(pc), with FOP 0. -/
def Obligations.IllegalPcFaultsAtFetch : Prop :=
  ∀ s : State, s.initialised = true → (s.pc.toNat % 2 = 1 ∨ s.pc.toNat > 0xFFE) → ∃ t,
    s.command (.step .absent) = .next t ∧ Suppressed s t .addrPc 0 s.pc.toNat

/-- R151, R77: at a final state whose pc is legal a STEP changes nothing but what is returned to the driver. -/
def Obligations.FinalStateStays : Prop :=
  ∀ s : State, s.Final → s.CanAdvance 0 →
    s.command (.step .absent) = .next { s with response := committedEffects false false false }

/-! ## Rules about the whole machine -/

/-- R131: the cause codes and the FSR bits of R26. -/
def Obligations.CauseCodesAndBits : Prop :=
  (Cause.addrPc.code = 1 ∧ Cause.addrPc.mask = 0x01) ∧ (Cause.addrMem.code = 2 ∧ Cause.addrMem.mask = 0x02) ∧
  (Cause.fontWrite.code = 3 ∧ Cause.fontWrite.mask = 0x04) ∧ (Cause.stackOvf.code = 4 ∧ Cause.stackOvf.mask = 0x08) ∧
  (Cause.stackUnf.code = 5 ∧ Cause.stackUnf.mask = 0x10) ∧ (Cause.unknownOp.code = 6 ∧ Cause.unknownOp.mask = 0x20) ∧
  (Cause.loadError.code = 7 ∧ Cause.loadError.mask = 0x00)

/-- R72, R133: every instruction in every state either commits, reporting nothing and leaving the fault records alone, or
is suppressed by one fatal fault. That a CLS or DXYN suppressed at 0xFFE reports display_changed 0 is the model's reading of
R64 (assumption log 5). -/
def Obligations.FaultsArePrecise : Prop :=
  ∀ (i : Instr) (s : State), ∃ t, exec i s = .next t ∧
    ((∃ d w k, t.response = committedEffects d w k ∧ t.pc.toNat % 2 = 0 ∧ t.pc.toNat ≤ 0xFFE ∧ t.fsr = s.fsr ∧
        t.fcause = s.fcause ∧ t.fpc = s.fpc ∧ t.fop = s.fop ∧ t.faddr = s.faddr) ∨
     ∃ c info, c ∈ [Cause.addrPc, .addrMem, .fontWrite, .stackOvf, .stackUnf] ∧ Suppressed s t c (encode i) info)

/-- R74: after a STEP waiting_key is 1 exactly if the word at a legal pc was FX0A and no key was latched, the step's own key
event counted; after every other STEP it is 0. -/
def Obligations.WaitingKeyIsExact : Prop :=
  ∀ (s t : State) (e : KeyEvent), s.command (.step e) = .next t →
    (t.waitingKey = true ↔ s.CanAdvance 0 ∧ (∃ x, decode s.fetchWord = .ok (.ldVxK x)) ∧
      (e = .absent ∧ s.pendingKey = none ∨ e = .present none))

/-- R70, R85, R86: where a committed instruction goes: a skip to pc + 2 or pc + 4, a waiting FX0A to pc, and every other
instruction that is no jump, call or return to pc + 2. -/
def Obligations.NextPcFollowsTheRules : Prop :=
  ∀ (i : Instr) (s t : State), exec i s = .next t → (∃ d w k, t.response = committedEffects d w k) →
    (i.row.mnemonic ∉ ["RET", "JP", "CALL", "JP_V0", "SE_IMM", "SNE_IMM", "SE_REG", "SNE_REG", "SKP", "SKNP", "LD_VX_K"] →
      t.pc.toNat = s.pc.toNat + 2) ∧
    (i.row.mnemonic ∈ ["SE_IMM", "SNE_IMM", "SE_REG", "SNE_REG", "SKP", "SKNP"] →
      t.pc.toNat = s.pc.toNat + 2 ∨ t.pc.toNat = s.pc.toNat + 4) ∧
    (i.row.mnemonic = "LD_VX_K" → t.pc.toNat = if s.pendingKey = none then s.pc.toNat else s.pc.toNat + 2)

/-- R71: at 0xFFE no instruction but a jump, a call, a return and a waiting FX0A commits; the step is suppressed. -/
def Obligations.NothingRunsOffTheEnd : Prop :=
  ∀ (i : Instr) (s t : State), s.pc = 0xFFE → exec i s = .next t → i.row.mnemonic ∉ ["JP", "CALL", "RET", "JP_V0"] →
    ¬(i.row.mnemonic = "LD_VX_K" ∧ s.pendingKey = none) →
    OnlyFaultRecords s t ∧ t.fsr ≠ 0 ∧ t.waitingKey = false

/-- R29, R13, R22: which instructions may write each field, in every state; what no list names keeps its value. -/
def Obligations.OnlyTheNamedInstructionsWriteEachField : Prop :=
  ∀ (i : Instr) (s t : State), exec i s = .next t →
    (∀ r : Reg, r ∉ destRegs i → t.v[r] = s.v[r]) ∧
    (i.row.mnemonic ∉ ["LD_B_VX", "LD_MEM_VX"] → ∀ a, t.byteAt a = s.byteAt a) ∧
    (i.row.mnemonic ∉ ["LD_I", "ADD_I_VX", "LD_F_VX", "LD_MEM_VX", "LD_VX_MEM"] → t.i = s.i) ∧
    (i.row.mnemonic ∉ ["CALL", "RET"] → t.sp = s.sp) ∧ (i.row.mnemonic ≠ "CALL" → t.stack = s.stack) ∧
    (i.row.mnemonic ≠ "LD_DT_VX" → t.dt = s.dt) ∧ (i.row.mnemonic ≠ "LD_ST_VX" → t.st = s.st) ∧
    (i.row.mnemonic ∉ ["CLS", "DRW"] → t.disp = s.disp ∧ t.drawDirty = s.drawDirty) ∧
    (i.row.mnemonic ≠ "LD_VX_K" → t.pendingKey = s.pendingKey) ∧ (i.row.mnemonic ≠ "RND" → t.draws = s.draws) ∧
    t.initialised = s.initialised ∧ t.cfg = s.cfg ∧ t.driver = s.driver

/-- R42, R106, R107: outside the bytes it stores (3 from I for FX33, X + 1 from I for FX55) a store changes no byte, in
every state, whether it commits or not. -/
def Obligations.StoresChangeOnlyTheirBytes : Prop :=
  ∀ (x : Reg) (s t : State) (a : Nat),
    (exec (.ldBVx x) s = .next t → ¬(s.baseAddr ≤ a ∧ a < s.baseAddr + 3) → t.byteAt a = s.byteAt a) ∧
    (exec (.ldMemVx x) s = .next t → ¬(s.baseAddr ≤ a ∧ a < s.baseAddr + (x.val + 1)) → t.byteAt a = s.byteAt a)

/-- R26, R132: no step whose command is not INIT clears a bit of FSR or changes the first-fault registers once one is
recorded. With no command listed the command is STEP without a key event, the model's choice (assumption log 3). -/
def Obligations.FaultRecordsAreSticky : Prop :=
  ∀ s t : State, (∀ rom, s.nextCommand ≠ .init rom) → step s = .next t →
    t.fsr &&& s.fsr = s.fsr ∧
    (s.fcause ≠ 0 → t.fcause = s.fcause ∧ t.fpc = s.fpc ∧ t.fop = s.fop ∧ t.faddr = s.faddr)

/-- R17, R33, R26, R78: every step of an initialised core, whatever command it is, keeps the invariant: pc even and at
most 0xFFE, memory canonical, the top bits of FSR 0, FSR and FCAUSE in agreement, return addresses on the stack. With no
command listed the command is STEP without a key event, the model's choice (assumption log 3). -/
def Obligations.EveryStepKeepsTheInvariant : Prop :=
  ∀ s t : State, s.Inv → step s = .next t → t.Inv

/-- R31: the invariant holds at reset. -/
def Obligations.ResetMeetsTheInvariant : Prop := State.reset.Inv

/-- R75, R133, R28, R127: an initialised core whose driver's commands are all legal never stops: it runs any number of steps.
For n beyond the listed commands this rests on the model's choice that an empty command list is a driver that issues STEP
without a key event for ever (assumption log 3): the spec's core starts no step by itself. -/
def Obligations.TheCoreNeverStops : Prop :=
  ∀ (n : Nat) (s : State), s.initialised = true → (∀ c ∈ s.driver, c.Legal) →
    ∃ t, core.run n s = .next t ∧ t.initialised = true
end

