-- ==== Sys2Proof/Laws/Decode.lean ====
section
/-! SUPPORT. The fields of an encoded word are the operands it was made of. -/

namespace Sys2Proof

theorem append_toNat {n m : Nat} (a : BitVec n) (b : BitVec m) : (a ++ b).toNat = a.toNat * 2 ^ m + b.toNat := by
  rw [BitVec.toNat_append, Nat.shiftLeft_eq, Nat.mul_comm, Nat.two_pow_add_eq_or_of_lt b.isLt]

theorem wordA_toNat (c : Nibble) (nnn : Imm12) : (wordA c nnn).toNat = c.toNat * 4096 + nnn.toNat :=
  append_toNat c nnn

theorem wordXNN_toNat (c : Nibble) (x : Reg) (nn : Byte) :
    (wordXNN c x nn).toNat = c.toNat * 4096 + x.val * 256 + nn.toNat := by
  have e : (BitVec.ofFin x : Nibble).toNat = x.val := rfl
  simp only [wordXNN, append_toNat, e]
  omega

theorem wordXYN_toNat (c : Nibble) (x y : Reg) (n : Nibble) :
    (wordXYN c x y n).toNat = c.toNat * 4096 + x.val * 256 + y.val * 16 + n.toNat := by
  have ex : (BitVec.ofFin x : Nibble).toNat = x.val := rfl
  have ey : (BitVec.ofFin y : Nibble).toNat = y.val := rfl
  simp only [wordXYN, append_toNat, ex, ey]
  omega

/-! Each field of R52 as arithmetic on the word's value. -/

theorem fieldClass_toNat (w : Word) : (fieldClass w).toNat = w.toNat / 4096 := by
  have := w.isLt
  simp only [fieldClass, BitVec.extractLsb_toNat, Nat.shiftRight_eq_div_pow]
  omega

theorem fieldX_val (w : Word) : (fieldX w).val = w.toNat / 256 % 16 := by
  show (w.extractLsb 11 8).toNat = _
  simp only [BitVec.extractLsb_toNat, Nat.shiftRight_eq_div_pow]

theorem fieldY_val (w : Word) : (fieldY w).val = w.toNat / 16 % 16 := by
  show (w.extractLsb 7 4).toNat = _
  simp only [BitVec.extractLsb_toNat, Nat.shiftRight_eq_div_pow]

theorem fieldN_toNat (w : Word) : (fieldN w).toNat = w.toNat % 16 := by
  simp only [fieldN, BitVec.extractLsb_toNat, Nat.shiftRight_zero]

theorem fieldNN_toNat (w : Word) : (fieldNN w).toNat = w.toNat % 256 := by
  simp only [fieldNN, BitVec.extractLsb_toNat, Nat.shiftRight_zero]

theorem fieldNNN_toNat (w : Word) : (fieldNNN w).toNat = w.toNat % 4096 := by
  simp only [fieldNNN, BitVec.extractLsb_toNat, Nat.shiftRight_zero]

/-! The fields of the three encoders. -/

@[simp] theorem fieldClass_wordA (c : Nibble) (nnn : Imm12) : fieldClass (wordA c nnn) = c := by
  apply BitVec.eq_of_toNat_eq
  rw [fieldClass_toNat, wordA_toNat]
  omega

@[simp] theorem fieldNNN_wordA (c : Nibble) (nnn : Imm12) : fieldNNN (wordA c nnn) = nnn := by
  apply BitVec.eq_of_toNat_eq
  rw [fieldNNN_toNat, wordA_toNat]
  omega

@[simp] theorem fieldClass_wordXNN (c : Nibble) (x : Reg) (nn : Byte) : fieldClass (wordXNN c x nn) = c := by
  apply BitVec.eq_of_toNat_eq
  rw [fieldClass_toNat, wordXNN_toNat]
  omega

@[simp] theorem fieldX_wordXNN (c : Nibble) (x : Reg) (nn : Byte) : fieldX (wordXNN c x nn) = x := by
  apply Fin.ext
  rw [fieldX_val, wordXNN_toNat]
  omega

@[simp] theorem fieldNN_wordXNN (c : Nibble) (x : Reg) (nn : Byte) : fieldNN (wordXNN c x nn) = nn := by
  apply BitVec.eq_of_toNat_eq
  rw [fieldNN_toNat, wordXNN_toNat]
  omega

@[simp] theorem fieldClass_wordXYN (c : Nibble) (x y : Reg) (n : Nibble) : fieldClass (wordXYN c x y n) = c := by
  apply BitVec.eq_of_toNat_eq
  rw [fieldClass_toNat, wordXYN_toNat]
  omega

@[simp] theorem fieldX_wordXYN (c : Nibble) (x y : Reg) (n : Nibble) : fieldX (wordXYN c x y n) = x := by
  apply Fin.ext
  rw [fieldX_val, wordXYN_toNat]
  omega

@[simp] theorem fieldY_wordXYN (c : Nibble) (x y : Reg) (n : Nibble) : fieldY (wordXYN c x y n) = y := by
  apply Fin.ext
  rw [fieldY_val, wordXYN_toNat]
  omega

@[simp] theorem fieldN_wordXYN (c : Nibble) (x y : Reg) (n : Nibble) : fieldN (wordXYN c x y n) = n := by
  apply BitVec.eq_of_toNat_eq
  rw [fieldN_toNat, wordXYN_toNat]
  omega

/-! The fixed bits of the three encoders, under the masks of R55. -/

theorem nibble_and_ones (c : Nibble) : c &&& 15 = c := BitVec.and_allOnes

theorem byte_and_ones (b : Byte) : b &&& 255 = b := BitVec.and_allOnes

theorem wordA_and_class (c : Nibble) (nnn : Imm12) : wordA c nnn &&& 0xF000 = wordA c 0 := by
  rw [show (0xF000 : Word) = (15 : Nibble) ++ 0#12 by decide, wordA, BitVec.and_append, nibble_and_ones,
    BitVec.and_zero]
  rfl

theorem wordXNN_and_class (c : Nibble) (x : Reg) (nn : Byte) : wordXNN c x nn &&& 0xF000 = wordXNN c 0 0 := by
  rw [show (0xF000 : Word) = (15 : Nibble) ++ 0#4 ++ 0#8 by decide, wordXNN, BitVec.and_append,
    BitVec.and_append, nibble_and_ones, BitVec.and_zero, BitVec.and_zero]
  rfl

theorem wordXNN_and_class_nn (c : Nibble) (x : Reg) (nn : Byte) : wordXNN c x nn &&& 0xF0FF = wordXNN c 0 nn := by
  rw [show (0xF0FF : Word) = (15 : Nibble) ++ 0#4 ++ (255 : Byte) by decide, wordXNN, BitVec.and_append,
    BitVec.and_append, nibble_and_ones, BitVec.and_zero, byte_and_ones]
  rfl

theorem wordXYN_and_class_n (c : Nibble) (x y : Reg) (n : Nibble) :
    wordXYN c x y n &&& 0xF00F = wordXYN c 0 0 n := by
  rw [show (0xF00F : Word) = (15 : Nibble) ++ 0#4 ++ 0#4 ++ (15 : Nibble) by decide, wordXYN,
    BitVec.and_append, BitVec.and_append, BitVec.and_append, nibble_and_ones, nibble_and_ones, BitVec.and_zero,
    BitVec.and_zero]
  rfl

theorem wordXYN_and_class (c : Nibble) (x y : Reg) (n : Nibble) : wordXYN c x y n &&& 0xF000 = wordXYN c 0 0 0 := by
  rw [show (0xF000 : Word) = (15 : Nibble) ++ 0#4 ++ 0#4 ++ 0#4 by decide, wordXYN,
    BitVec.and_append, BitVec.and_append, BitVec.and_append, nibble_and_ones, BitVec.and_zero, BitVec.and_zero,
    BitVec.and_zero]
  rfl

end Sys2Proof
end

