-- ==== Sys2Proof/Laws/Display.lean ====
section
/-! SUPPORT. The blit engine, said once: which pixels a draw flips, when it collides, when it changes anything. -/

namespace Sys2Proof.Machine

theorem Display.pixel_flip (d : Display) (x px : Fin 64) (y py : Fin 32) :
    (d.flip x y).pixel px py = if px = x ∧ py = y then !d.pixel px py else d.pixel px py := by
  simp only [Display.flip, Display.pixel, Fin.getElem_fin, Vector.getElem_set, Fin.ext_iff]
  by_cases hx : px.val = x.val
  · by_cases hy : py.val = y.val
    · simp [hx, hy]
    · simp [hx, hy, Ne.symm hy]
  · simp [hx, Ne.symm hx]

theorem Display.pixel_clear (px : Fin 64) (py : Fin 32) : Display.clear.pixel px py = false := by
  simp [Display.clear, Display.pixel]

/-- `c'` is `c` after exactly the pixels of `H` were hit by a sprite bit 1, each once. -/
structure Canvas.Drew (c c' : Canvas) (H : Fin 64 → Fin 32 → Prop) : Prop where
  pixel     : ∀ px py, c'.disp.pixel px py = true ↔ ¬(c.disp.pixel px py = true ↔ H px py)
  collision : c'.collision = true ↔ c.collision = true ∨ ∃ px py, H px py ∧ c.disp.pixel px py = true
  changed   : c'.changed = true ↔ c.changed = true ∨ ∃ px py, H px py

theorem Canvas.Drew.refl (c : Canvas) {H : Fin 64 → Fin 32 → Prop} (h : ∀ px py, ¬H px py) : c.Drew c H where
  pixel px py := by simp [h]
  collision := by simp [h]
  changed := by simp [h]

theorem Canvas.Drew.plot (c : Canvas) (x : Fin 64) (y : Fin 32) {H : Fin 64 → Fin 32 → Prop}
    (h : ∀ px py, H px py ↔ px = x ∧ py = y) : c.Drew (c.plot x y) H where
  pixel px py := by
    rw [h]
    simp only [Canvas.plot, Display.pixel_flip]
    by_cases e : px = x ∧ py = y <;> cases c.disp.pixel px py <;> simp [e]
  collision := by simp [Canvas.plot, h]
  changed := by simp [Canvas.plot, h]

/-- Two draws one after the other that hit no pixel in common are one draw of both. -/
theorem Canvas.Drew.trans {c₁ c₂ c₃ : Canvas} {H₁ H₂ H : Fin 64 → Fin 32 → Prop} (h₁ : c₁.Drew c₂ H₁)
    (h₂ : c₂.Drew c₃ H₂) (hd : ∀ px py, H₁ px py → ¬H₂ px py) (h : ∀ px py, H px py ↔ H₁ px py ∨ H₂ px py) :
    c₁.Drew c₃ H where
  pixel px py := by
    rw [h₂.pixel, h₁.pixel, h]
    have := hd px py
    tauto
  collision := by
    have e : ∀ px py, H₂ px py → (c₂.disp.pixel px py = true ↔ c₁.disp.pixel px py = true) := fun px py k => by
      have := hd px py
      rw [h₁.pixel]
      tauto
    rw [h₂.collision, h₁.collision]
    constructor
    · rintro ((k | ⟨px, py, k, l⟩) | ⟨px, py, k, l⟩)
      · exact .inl k
      · exact .inr ⟨px, py, (h px py).2 (.inl k), l⟩
      · exact .inr ⟨px, py, (h px py).2 (.inr k), (e px py k).1 l⟩
    · rintro (k | ⟨px, py, k, l⟩)
      · exact .inl (.inl k)
      · rcases (h px py).1 k with k | k
        · exact .inl (.inr ⟨px, py, k, l⟩)
        · exact .inr ⟨px, py, k, (e px py k).2 l⟩
  changed := by
    rw [h₂.changed, h₁.changed]
    constructor
    · rintro ((k | ⟨px, py, k⟩) | ⟨px, py, k⟩)
      · exact .inl k
      · exact .inr ⟨px, py, (h px py).2 (.inl k)⟩
      · exact .inr ⟨px, py, (h px py).2 (.inr k)⟩
    · rintro (k | ⟨px, py, k⟩)
      · exact .inl (.inl k)
      · rcases (h px py).1 k with k | k
        · exact .inl (.inr ⟨px, py, k⟩)
        · exact .inr ⟨px, py, k⟩

/-- One row at columns that are less than 8 and rising hits the pixels of its set bits; no two columns meet (R116). -/
theorem Canvas.plotRow_drew (x0 : Nat) (y : Fin 32) (row : Byte) (js : List Nat) (hs : js.Pairwise (· < ·))
    (hj : ∀ j ∈ js, j < 8) (c : Canvas) :
    c.Drew (c.plotRow x0 y row js) fun px py =>
      ∃ j ∈ js, row.getLsbD (7 - j) = true ∧ (x0 + j) % 64 = px.val ∧ y = py := by
  induction js generalizing c with
  | nil => exact .refl c (by simp)
  | cons j js ih =>
    have hlt : ∀ k ∈ js, j < k := fun k hk => List.rel_of_pairwise_cons hs hk
    have hj0 := hj j (by simp)
    have rest := ih (List.Pairwise.of_cons hs) (fun k hk => hj k (by simp [hk]))
    have first : c.Drew (if row.getLsbD (7 - j) then c.plot (Fin.ofNat 64 (x0 + j)) y else c) fun px py =>
        row.getLsbD (7 - j) = true ∧ (x0 + j) % 64 = px.val ∧ y = py := by
      cases h : row.getLsbD (7 - j) with
      | false => exact .refl c (by simp)
      | true =>
        refine .plot c _ _ fun px py => ?_
        simp only [true_and, Fin.ext_iff, Fin.val_ofNat]
        constructor <;> rintro ⟨a, b⟩ <;> exact ⟨a.symm, b.symm⟩
    refine first.trans (rest _) ?_ ?_
    · rintro px py ⟨_, a, _⟩ ⟨k, hk, _, b, _⟩
      have := hlt k hk
      have := hj k (by simp [hk])
      omega
    · intro px py
      simp

/-- The rows from row `y` on; no two of at most 32 rows meet (R116). -/
theorem Canvas.plotRows_drew (x0 y : Nat) (rows : List Byte) (hr : rows.length ≤ 32) (c : Canvas) :
    c.Drew (c.plotRows x0 y rows) fun px py =>
      ∃ (r : Nat) (h : r < rows.length), ∃ j, j < 8 ∧ rows[r].getLsbD (7 - j) = true ∧
        (x0 + j) % 64 = px.val ∧ (y + r) % 32 = py.val := by
  induction rows generalizing y c with
  | nil => exact .refl c (by simp)
  | cons row rows ih =>
    simp only [List.length_cons] at hr
    have first := Canvas.plotRow_drew x0 (Fin.ofNat 32 y) row (List.range 8) List.pairwise_lt_range
      (fun j hj => List.mem_range.1 hj) c
    refine first.trans (ih (y + 1) (by omega) _) ?_ ?_
    · rintro px py ⟨j, _, _, _, a⟩ ⟨r, hr', _, _, _, _, b⟩
      have := congrArg Fin.val a
      simp only [Fin.val_ofNat] at this
      omega
    · intro px py
      constructor
      · rintro ⟨r, h, j, hj, a, b, e⟩
        cases r with
        | zero => exact .inl ⟨j, List.mem_range.2 hj, a, b, Fin.ext (by simpa using e)⟩
        | succ r => exact .inr ⟨r, by simpa using h, j, hj, a, b, by rw [← e]; congr 1; omega⟩
      · rintro (⟨j, hj, a, b, e⟩ | ⟨r, h, j, hj, a, b, e⟩)
        · exact ⟨0, by simp, j, List.mem_range.1 hj, a, b, by rw [← e]; simp⟩
        · exact ⟨r + 1, by simpa using h, j, hj, a, b, by rw [← e]; congr 1; omega⟩

/-- R110 to R112 and R114 in one: what a whole draw of at most 32 rows does. -/
theorem blit_drew (d : Display) (x0 y0 : Nat) (rows : List Byte) (hr : rows.length ≤ 32) :
    Canvas.Drew ⟨d, false, false⟩ (blit d x0 y0 rows) fun px py =>
      ∃ (r : Nat) (h : r < rows.length), ∃ j, j < 8 ∧ rows[r].getLsbD (7 - j) = true ∧
        (x0 + j) % 64 = px.val ∧ (y0 + r) % 32 = py.val :=
  Canvas.plotRows_drew x0 y0 rows hr _

end Sys2Proof.Machine
end

