-- ==== Sys2Proof/Laws/Memory.lean ====
section
/-! SUPPORT. The laws of memory: read after write, and the canonical form, which every operation keeps. -/

namespace Sys2Proof.Machine

variable {d : Nat → Byte}

theorem Memory.head_above_of_lt {m : Memory} {a b : Nat} (hab : a < b)
    (h : m.head?.all (fun c => decide (b < c.1)) = true) : m.head?.all (fun c => decide (a < c.1)) = true := by
  cases m with
  | nil => rfl
  | cons c m => simp at h ⊢; omega

/-- An address below the first listed one reads as unlisted. -/
theorem Memory.read_below (m : Memory) (a : Nat) (ha : m.head?.all (fun c => decide (a < c.1)) = true)
    (h : Memory.wf d m = true) : Memory.read d m a = d a := by
  induction m with
  | nil => rfl
  | cons c m ih =>
    obtain ⟨b, u⟩ := c
    simp only [Memory.wf, Bool.and_eq_true] at h
    simp only [List.head?_cons, Option.all_some, decide_eq_true_eq] at ha
    have : b ≠ a := by omega
    simp only [Memory.read, this, if_false]
    exact ih (Memory.head_above_of_lt ha h.1.2) h.2

theorem Memory.read_write_same (m : Memory) (a : Nat) (x : Byte) (h : Memory.wf d m = true) :
    Memory.read d (Memory.write d m a x) a = x := by
  induction m with
  | nil => by_cases hx : x = d a <;> simp [Memory.write, Memory.read, hx]
  | cons c m ih =>
    obtain ⟨b, u⟩ := c
    simp only [Memory.wf, Bool.and_eq_true] at h
    by_cases h1 : b < a
    · simp [Memory.write, h1, Memory.read, Nat.ne_of_lt h1, ih h.2]
    · by_cases h2 : b = a
      · subst h2
        by_cases hx : x = d b
        · simp only [Memory.write, lt_irrefl, if_false, if_true, hx]
          exact Memory.read_below m b h.1.2 h.2
        · simp [Memory.write, hx, Memory.read]
      · by_cases hx : x = d a
        · simp only [Memory.write, h1, h2, hx, if_true, if_false, Memory.read]
          have hb : a < b := by omega
          exact Memory.read_below m a (Memory.head_above_of_lt hb h.1.2) h.2
        · simp [Memory.write, h1, h2, hx, Memory.read]
theorem Memory.read_write_other (m : Memory) (a b : Nat) (x : Byte) (h : b ≠ a) :
    Memory.read d (Memory.write d m a x) b = Memory.read d m b := by
  induction m with
  | nil => by_cases hx : x = d a <;> simp [Memory.write, Memory.read, hx, h.symm]
  | cons c m ih =>
    obtain ⟨e, u⟩ := c
    by_cases h1 : e < a
    · simp [Memory.write, h1, Memory.read, ih]
    · by_cases h2 : e = a
      · subst h2
        by_cases hx : x = d e <;> simp [Memory.write, hx, Memory.read, h.symm]
      · by_cases hx : x = d a <;> simp [Memory.write, h1, h2, hx, Memory.read, h.symm]

/-- Writing an existing address keeps the canonical form. -/
theorem Memory.wf_write (m : Memory) (a : Nat) (x : Byte) (ha : a ≤ 0xFFF) (h : Memory.wf d m = true) :
    Memory.wf d (Memory.write d m a x) = true ∧
      ∀ k, k < a → m.head?.all (fun c => decide (k < c.1)) = true →
        (Memory.write d m a x).head?.all (fun c => decide (k < c.1)) = true := by
  induction m with
  | nil => by_cases hx : x = d a <;> simp_all [Memory.write, Memory.wf]
  | cons c m ih =>
    obtain ⟨b, u⟩ := c
    simp only [Memory.wf, Bool.and_eq_true, decide_eq_true_eq] at h
    obtain ⟨⟨⟨hb, hu⟩, hh⟩, hm⟩ := h
    by_cases h1 : b < a
    · have := ih hm
      simp only [Memory.write, h1, if_true, Memory.wf, Bool.and_eq_true, decide_eq_true_eq]
      exact ⟨⟨⟨⟨hb, hu⟩, this.2 b h1 hh⟩, this.1⟩, fun k _ hk => by simpa using hk⟩
    · by_cases h2 : b = a
      · subst h2
        by_cases hx : x = d b
        · simp only [Memory.write, lt_irrefl, if_false, if_true, hx]
          refine ⟨hm, fun k hk _ => ?_⟩
          cases m with
          | nil => rfl
          | cons e m => simp at hh ⊢; omega
        · simp only [Memory.write, lt_irrefl, if_false, if_true, hx, Memory.wf, Bool.and_eq_true, decide_eq_true_eq]
          exact ⟨⟨⟨⟨ha, by simpa using hx⟩, hh⟩, hm⟩, fun k hk _ => by simpa using hk⟩
      · by_cases hx : x = d a
        · simp only [Memory.write, h1, h2, hx, if_true, if_false, Memory.wf, Bool.and_eq_true, decide_eq_true_eq]
          exact ⟨⟨⟨⟨hb, hu⟩, hh⟩, hm⟩, fun k _ hk => hk⟩
        · simp only [Memory.write, h1, h2, hx, if_false, Memory.wf, Bool.and_eq_true, decide_eq_true_eq]
          refine ⟨⟨⟨⟨ha, by simpa using hx⟩, ?_⟩, ⟨⟨hb, hu⟩, hh⟩, hm⟩, fun k hk _ => by simpa using hk⟩
          simp; omega

theorem Memory.wf_writeAll (xs : List Byte) (m : Memory) (a : Nat) (ha : a + xs.length ≤ 0x1000)
    (h : Memory.wf d m = true) : Memory.wf d (Memory.writeAll d m a xs) = true := by
  induction xs generalizing m a with
  | nil => exact h
  | cons x xs ih =>
    simp only [List.length_cons] at ha
    exact ih _ _ (by omega) (Memory.wf_write m a x (by omega) h).1

/-- What any address reads as after several bytes are stored from `a` on. -/
theorem Memory.read_writeAll (xs : List Byte) (m : Memory) (a b : Nat) (ha : a + xs.length ≤ 0x1000)
    (h : Memory.wf d m = true) :
    Memory.read d (Memory.writeAll d m a xs) b =
      if hb : a ≤ b ∧ b < a + xs.length then xs[b - a]'(by omega) else Memory.read d m b := by
  induction xs generalizing m a with
  | nil => simp [Memory.writeAll]
  | cons x xs ih =>
    simp only [List.length_cons] at ha
    rw [Memory.writeAll, ih _ _ (by omega) (Memory.wf_write m a x (by omega) h).1]
    by_cases h1 : a + 1 ≤ b ∧ b < a + 1 + xs.length
    · have h2 : a ≤ b ∧ b < a + (x :: xs).length := by simp only [List.length_cons]; omega
      have h3 : b - a = (b - (a + 1)) + 1 := by omega
      rw [dif_pos h1, dif_pos h2]
      simp [h3]
    · by_cases h2 : b = a
      · subst h2
        simp [Memory.read_write_same m b x h]
      · have h3 : ¬(a ≤ b ∧ b < a + (x :: xs).length) := by simp only [List.length_cons]; omega
        simp only [h1, h3, dif_neg, not_false_eq_true]
        exact Memory.read_write_other m a b x h2

/-- Outside the stored bytes nothing changes, in any memory. -/
theorem Memory.read_writeAll_outside (xs : List Byte) (m : Memory) (a b : Nat) (h : ¬(a ≤ b ∧ b < a + xs.length)) :
    Memory.read d (Memory.writeAll d m a xs) b = Memory.read d m b := by
  induction xs generalizing m a with
  | nil => rfl
  | cons x xs ih =>
    simp only [List.length_cons] at h
    rw [Memory.writeAll, ih _ _ (by omega), Memory.read_write_other _ _ _ _ (by omega)]

theorem State.byteAt_putBytes (s : State) (a b : Nat) (xs : List Byte) (ha : a + xs.length ≤ 0x1000)
    (h : Memory.wf (unlisted s.cfg) s.mem = true) :
    (s.putBytes a xs).byteAt b = if hb : a ≤ b ∧ b < a + xs.length then xs[b - a]'(by omega) else s.byteAt b :=
  Memory.read_writeAll xs s.mem a b ha h

theorem State.byteAt_putBytes_outside (s : State) (a b : Nat) (xs : List Byte) (h : ¬(a ≤ b ∧ b < a + xs.length)) :
    (s.putBytes a xs).byteAt b = s.byteAt b :=
  Memory.read_writeAll_outside xs s.mem a b h

theorem State.reset_mem_wf : Memory.wf (unlisted State.reset.cfg) State.reset.mem = true := rfl

/-- The address checks of one instruction: none fails, or the first that fails is reported with its cause. -/
theorem firstFailing_cases (check : Nat → Option Cause) (a n : Nat) :
    (firstFailing check a n = none ∧ ∀ k, k < n → check (a + k) = none) ∨
    ∃ k c, k < n ∧ firstFailing check a n = some (c, a + k) ∧ check (a + k) = some c ∧
      ∀ j, j < k → check (a + j) = none := by
  induction n generalizing a with
  | zero => exact .inl ⟨rfl, fun k hk => absurd hk (Nat.not_lt_zero k)⟩
  | succ n ih =>
    cases hc : check a with
    | some c => exact .inr ⟨0, c, by omega, by simp [firstFailing, hc], by simpa using hc, fun j hj => by omega⟩
    | none =>
      rcases ih (a + 1) with ⟨h1, h2⟩ | ⟨k, c, hk, h1, h2, h3⟩
      · refine .inl ⟨by simp [firstFailing, hc, h1], fun k hk => ?_⟩
        cases k with
        | zero => simpa using hc
        | succ k => have := h2 k (by omega); rwa [show a + 1 + k = a + (k + 1) by omega] at this
      · have e : a + 1 + k = a + (k + 1) := by omega
        rw [e] at h1 h2
        refine .inr ⟨k + 1, c, by omega, by simp [firstFailing, hc, h1], h2, fun j hj => ?_⟩
        cases j with
        | zero => simpa using hc
        | succ j => have := h3 j (by omega); rwa [show a + 1 + j = a + (j + 1) by omega] at this

/-- Every address passes its check exactly when nothing is reported. -/
theorem firstFailing_eq_none (check : Nat → Option Cause) (a n : Nat) :
    firstFailing check a n = none ↔ ∀ k, k < n → check (a + k) = none := by
  rcases firstFailing_cases check a n with ⟨h1, h2⟩ | ⟨k, c, hk, h1, h2, _⟩
  · exact ⟨fun _ => h2, fun _ => h1⟩
  · exact ⟨fun h => by simp [h] at h1, fun h => by simp [h k hk] at h2⟩

end Sys2Proof.Machine
end

