-- ==== Sys2Proof/Laws/PerInstr.lean ====
section
/-! SUPPORT. Per instruction: its encoded word is one the opcode map gives to its own row (30_encoding.md R55). -/

namespace Sys2Proof.Laws.TableRow

/-- The row of the instruction is in the opcode map and admits the instruction's word. -/
def Statement (i : Instr) : Prop := i.row ∈ opcodeMap ∧ i.row.admits (encode i) = true

/-- A row is in the map when it is the row of one of the map's sample instructions, the `k`-th. -/
theorem statement_of {i : Instr} (k : Nat) (hk : opcodeMap[k]? = some i.row) (h : encode i &&& i.row.mask = i.row.pattern) :
    Statement i :=
  ⟨List.mem_of_getElem? hk, by rw [OpcodeRow.admits, h]; exact beq_self_eq_true _⟩

theorem cls : Statement .cls := statement_of 0 rfl (by decide)

theorem ret : Statement .ret := statement_of 1 rfl (by decide)

theorem jp (nnn : Imm12) : Statement (.jp nnn) :=
  statement_of 2 rfl ((wordA_and_class 1 nnn).trans (by decide : wordA 1 0 = 0x1000))

theorem call (nnn : Imm12) : Statement (.call nnn) :=
  statement_of 3 rfl ((wordA_and_class 2 nnn).trans (by decide : wordA 2 0 = 0x2000))

theorem seImm (x : Reg) (nn : Byte) : Statement (.seImm x nn) :=
  statement_of 4 rfl ((wordXNN_and_class 3 x nn).trans (by decide : wordXNN 3 0 0 = 0x3000))

theorem sneImm (x : Reg) (nn : Byte) : Statement (.sneImm x nn) :=
  statement_of 5 rfl ((wordXNN_and_class 4 x nn).trans (by decide : wordXNN 4 0 0 = 0x4000))

theorem seReg (x y : Reg) : Statement (.seReg x y) :=
  statement_of 6 rfl ((wordXYN_and_class_n 5 x y 0).trans (by decide : wordXYN 5 0 0 0 = 0x5000))

theorem ldImm (x : Reg) (nn : Byte) : Statement (.ldImm x nn) :=
  statement_of 7 rfl ((wordXNN_and_class 6 x nn).trans (by decide : wordXNN 6 0 0 = 0x6000))

theorem addImm (x : Reg) (nn : Byte) : Statement (.addImm x nn) :=
  statement_of 8 rfl ((wordXNN_and_class 7 x nn).trans (by decide : wordXNN 7 0 0 = 0x7000))

theorem ldReg (x y : Reg) : Statement (.ldReg x y) :=
  statement_of 9 rfl ((wordXYN_and_class_n 8 x y 0).trans (by decide : wordXYN 8 0 0 0 = 0x8000))

theorem orReg (x y : Reg) : Statement (.orReg x y) :=
  statement_of 10 rfl ((wordXYN_and_class_n 8 x y 1).trans (by decide : wordXYN 8 0 0 1 = 0x8001))

theorem andReg (x y : Reg) : Statement (.andReg x y) :=
  statement_of 11 rfl ((wordXYN_and_class_n 8 x y 2).trans (by decide : wordXYN 8 0 0 2 = 0x8002))

theorem xorReg (x y : Reg) : Statement (.xorReg x y) :=
  statement_of 12 rfl ((wordXYN_and_class_n 8 x y 3).trans (by decide : wordXYN 8 0 0 3 = 0x8003))

theorem addReg (x y : Reg) : Statement (.addReg x y) :=
  statement_of 13 rfl ((wordXYN_and_class_n 8 x y 4).trans (by decide : wordXYN 8 0 0 4 = 0x8004))

theorem subReg (x y : Reg) : Statement (.subReg x y) :=
  statement_of 14 rfl ((wordXYN_and_class_n 8 x y 5).trans (by decide : wordXYN 8 0 0 5 = 0x8005))

theorem shr (x y : Reg) : Statement (.shr x y) :=
  statement_of 15 rfl ((wordXYN_and_class_n 8 x y 6).trans (by decide : wordXYN 8 0 0 6 = 0x8006))

theorem subnReg (x y : Reg) : Statement (.subnReg x y) :=
  statement_of 16 rfl ((wordXYN_and_class_n 8 x y 7).trans (by decide : wordXYN 8 0 0 7 = 0x8007))

theorem shl (x y : Reg) : Statement (.shl x y) :=
  statement_of 17 rfl ((wordXYN_and_class_n 8 x y 14).trans (by decide : wordXYN 8 0 0 14 = 0x800E))

theorem sneReg (x y : Reg) : Statement (.sneReg x y) :=
  statement_of 18 rfl ((wordXYN_and_class_n 9 x y 0).trans (by decide : wordXYN 9 0 0 0 = 0x9000))

theorem ldI (nnn : Imm12) : Statement (.ldI nnn) :=
  statement_of 19 rfl ((wordA_and_class 10 nnn).trans (by decide : wordA 10 0 = 0xA000))

theorem jpV0 (nnn : Imm12) : Statement (.jpV0 nnn) :=
  statement_of 20 rfl ((wordA_and_class 11 nnn).trans (by decide : wordA 11 0 = 0xB000))

theorem rnd (x : Reg) (nn : Byte) : Statement (.rnd x nn) :=
  statement_of 21 rfl ((wordXNN_and_class 12 x nn).trans (by decide : wordXNN 12 0 0 = 0xC000))

theorem drw (x y : Reg) (n : Nibble) : Statement (.drw x y n) :=
  statement_of 22 rfl ((wordXYN_and_class 13 x y n).trans (by decide : wordXYN 13 0 0 0 = 0xD000))

theorem skp (x : Reg) : Statement (.skp x) :=
  statement_of 23 rfl ((wordXNN_and_class_nn 14 x 0x9E).trans (by decide : wordXNN 14 0 0x9E = 0xE09E))

theorem sknp (x : Reg) : Statement (.sknp x) :=
  statement_of 24 rfl ((wordXNN_and_class_nn 14 x 0xA1).trans (by decide : wordXNN 14 0 0xA1 = 0xE0A1))

theorem ldVxDt (x : Reg) : Statement (.ldVxDt x) :=
  statement_of 25 rfl ((wordXNN_and_class_nn 15 x 0x07).trans (by decide : wordXNN 15 0 0x07 = 0xF007))

theorem ldVxK (x : Reg) : Statement (.ldVxK x) :=
  statement_of 26 rfl ((wordXNN_and_class_nn 15 x 0x0A).trans (by decide : wordXNN 15 0 0x0A = 0xF00A))

theorem ldDtVx (x : Reg) : Statement (.ldDtVx x) :=
  statement_of 27 rfl ((wordXNN_and_class_nn 15 x 0x15).trans (by decide : wordXNN 15 0 0x15 = 0xF015))

theorem ldStVx (x : Reg) : Statement (.ldStVx x) :=
  statement_of 28 rfl ((wordXNN_and_class_nn 15 x 0x18).trans (by decide : wordXNN 15 0 0x18 = 0xF018))

theorem addIVx (x : Reg) : Statement (.addIVx x) :=
  statement_of 29 rfl ((wordXNN_and_class_nn 15 x 0x1E).trans (by decide : wordXNN 15 0 0x1E = 0xF01E))

theorem ldFVx (x : Reg) : Statement (.ldFVx x) :=
  statement_of 30 rfl ((wordXNN_and_class_nn 15 x 0x29).trans (by decide : wordXNN 15 0 0x29 = 0xF029))

theorem ldBVx (x : Reg) : Statement (.ldBVx x) :=
  statement_of 31 rfl ((wordXNN_and_class_nn 15 x 0x33).trans (by decide : wordXNN 15 0 0x33 = 0xF033))

theorem ldMemVx (x : Reg) : Statement (.ldMemVx x) :=
  statement_of 32 rfl ((wordXNN_and_class_nn 15 x 0x55).trans (by decide : wordXNN 15 0 0x55 = 0xF055))

theorem ldVxMem (x : Reg) : Statement (.ldVxMem x) :=
  statement_of 33 rfl ((wordXNN_and_class_nn 15 x 0x65).trans (by decide : wordXNN 15 0 0x65 = 0xF065))

end Sys2Proof.Laws.TableRow
end

