-- ==== Sys2Proof/Laws/State.lean ====
section
/-! SUPPORT. One lemma per field for each named update of the state, so that no proof unfolds a record update. -/

namespace Sys2Proof.Machine

/-! ## setV -/

@[simp] theorem State.setV_mem (s : State) (x : Reg) (b : Byte) : (s.setV x b).mem = s.mem := rfl
@[simp] theorem State.setV_v (s : State) (x : Reg) (b : Byte) : (s.setV x b).v = s.v.set x b := rfl
@[simp] theorem State.setV_i (s : State) (x : Reg) (b : Byte) : (s.setV x b).i = s.i := rfl
@[simp] theorem State.setV_pc (s : State) (x : Reg) (b : Byte) : (s.setV x b).pc = s.pc := rfl
@[simp] theorem State.setV_stack (s : State) (x : Reg) (b : Byte) : (s.setV x b).stack = s.stack := rfl
@[simp] theorem State.setV_sp (s : State) (x : Reg) (b : Byte) : (s.setV x b).sp = s.sp := rfl
@[simp] theorem State.setV_dt (s : State) (x : Reg) (b : Byte) : (s.setV x b).dt = s.dt := rfl
@[simp] theorem State.setV_st (s : State) (x : Reg) (b : Byte) : (s.setV x b).st = s.st := rfl
@[simp] theorem State.setV_disp (s : State) (x : Reg) (b : Byte) : (s.setV x b).disp = s.disp := rfl
@[simp] theorem State.setV_pendingKey (s : State) (x : Reg) (b : Byte) : (s.setV x b).pendingKey = s.pendingKey := rfl
@[simp] theorem State.setV_drawDirty (s : State) (x : Reg) (b : Byte) : (s.setV x b).drawDirty = s.drawDirty := rfl
@[simp] theorem State.setV_waitingKey (s : State) (x : Reg) (b : Byte) : (s.setV x b).waitingKey = s.waitingKey := rfl
@[simp] theorem State.setV_fsr (s : State) (x : Reg) (b : Byte) : (s.setV x b).fsr = s.fsr := rfl
@[simp] theorem State.setV_fcause (s : State) (x : Reg) (b : Byte) : (s.setV x b).fcause = s.fcause := rfl
@[simp] theorem State.setV_fpc (s : State) (x : Reg) (b : Byte) : (s.setV x b).fpc = s.fpc := rfl
@[simp] theorem State.setV_fop (s : State) (x : Reg) (b : Byte) : (s.setV x b).fop = s.fop := rfl
@[simp] theorem State.setV_faddr (s : State) (x : Reg) (b : Byte) : (s.setV x b).faddr = s.faddr := rfl
@[simp] theorem State.setV_initialised (s : State) (x : Reg) (b : Byte) : (s.setV x b).initialised = s.initialised := rfl
@[simp] theorem State.setV_cfg (s : State) (x : Reg) (b : Byte) : (s.setV x b).cfg = s.cfg := rfl
@[simp] theorem State.setV_driver (s : State) (x : Reg) (b : Byte) : (s.setV x b).driver = s.driver := rfl
@[simp] theorem State.setV_draws (s : State) (x : Reg) (b : Byte) : (s.setV x b).draws = s.draws := rfl
@[simp] theorem State.setV_response (s : State) (x : Reg) (b : Byte) : (s.setV x b).response = s.response := rfl

/-! ## setFlagged -/

@[simp] theorem State.setFlagged_mem (s : State) (x : Reg) (r f : Byte) : (s.setFlagged x r f).mem = s.mem := rfl
@[simp] theorem State.setFlagged_v (s : State) (x : Reg) (r f : Byte) : (s.setFlagged x r f).v = (s.v.set x r).set vf f := rfl
@[simp] theorem State.setFlagged_i (s : State) (x : Reg) (r f : Byte) : (s.setFlagged x r f).i = s.i := rfl
@[simp] theorem State.setFlagged_pc (s : State) (x : Reg) (r f : Byte) : (s.setFlagged x r f).pc = s.pc := rfl
@[simp] theorem State.setFlagged_stack (s : State) (x : Reg) (r f : Byte) : (s.setFlagged x r f).stack = s.stack := rfl
@[simp] theorem State.setFlagged_sp (s : State) (x : Reg) (r f : Byte) : (s.setFlagged x r f).sp = s.sp := rfl
@[simp] theorem State.setFlagged_dt (s : State) (x : Reg) (r f : Byte) : (s.setFlagged x r f).dt = s.dt := rfl
@[simp] theorem State.setFlagged_st (s : State) (x : Reg) (r f : Byte) : (s.setFlagged x r f).st = s.st := rfl
@[simp] theorem State.setFlagged_disp (s : State) (x : Reg) (r f : Byte) : (s.setFlagged x r f).disp = s.disp := rfl
@[simp] theorem State.setFlagged_pendingKey (s : State) (x : Reg) (r f : Byte) : (s.setFlagged x r f).pendingKey = s.pendingKey := rfl
@[simp] theorem State.setFlagged_drawDirty (s : State) (x : Reg) (r f : Byte) : (s.setFlagged x r f).drawDirty = s.drawDirty := rfl
@[simp] theorem State.setFlagged_waitingKey (s : State) (x : Reg) (r f : Byte) : (s.setFlagged x r f).waitingKey = s.waitingKey := rfl
@[simp] theorem State.setFlagged_fsr (s : State) (x : Reg) (r f : Byte) : (s.setFlagged x r f).fsr = s.fsr := rfl
@[simp] theorem State.setFlagged_fcause (s : State) (x : Reg) (r f : Byte) : (s.setFlagged x r f).fcause = s.fcause := rfl
@[simp] theorem State.setFlagged_fpc (s : State) (x : Reg) (r f : Byte) : (s.setFlagged x r f).fpc = s.fpc := rfl
@[simp] theorem State.setFlagged_fop (s : State) (x : Reg) (r f : Byte) : (s.setFlagged x r f).fop = s.fop := rfl
@[simp] theorem State.setFlagged_faddr (s : State) (x : Reg) (r f : Byte) : (s.setFlagged x r f).faddr = s.faddr := rfl
@[simp] theorem State.setFlagged_initialised (s : State) (x : Reg) (r f : Byte) : (s.setFlagged x r f).initialised = s.initialised := rfl
@[simp] theorem State.setFlagged_cfg (s : State) (x : Reg) (r f : Byte) : (s.setFlagged x r f).cfg = s.cfg := rfl
@[simp] theorem State.setFlagged_driver (s : State) (x : Reg) (r f : Byte) : (s.setFlagged x r f).driver = s.driver := rfl
@[simp] theorem State.setFlagged_draws (s : State) (x : Reg) (r f : Byte) : (s.setFlagged x r f).draws = s.draws := rfl
@[simp] theorem State.setFlagged_response (s : State) (x : Reg) (r f : Byte) : (s.setFlagged x r f).response = s.response := rfl

/-! ## putByte -/

@[simp] theorem State.putByte_mem (s : State) (a : Nat) (x : Byte) : (s.putByte a x).mem = Memory.write (unlisted s.cfg) s.mem a x := rfl
@[simp] theorem State.putByte_v (s : State) (a : Nat) (x : Byte) : (s.putByte a x).v = s.v := rfl
@[simp] theorem State.putByte_i (s : State) (a : Nat) (x : Byte) : (s.putByte a x).i = s.i := rfl
@[simp] theorem State.putByte_pc (s : State) (a : Nat) (x : Byte) : (s.putByte a x).pc = s.pc := rfl
@[simp] theorem State.putByte_stack (s : State) (a : Nat) (x : Byte) : (s.putByte a x).stack = s.stack := rfl
@[simp] theorem State.putByte_sp (s : State) (a : Nat) (x : Byte) : (s.putByte a x).sp = s.sp := rfl
@[simp] theorem State.putByte_dt (s : State) (a : Nat) (x : Byte) : (s.putByte a x).dt = s.dt := rfl
@[simp] theorem State.putByte_st (s : State) (a : Nat) (x : Byte) : (s.putByte a x).st = s.st := rfl
@[simp] theorem State.putByte_disp (s : State) (a : Nat) (x : Byte) : (s.putByte a x).disp = s.disp := rfl
@[simp] theorem State.putByte_pendingKey (s : State) (a : Nat) (x : Byte) : (s.putByte a x).pendingKey = s.pendingKey := rfl
@[simp] theorem State.putByte_drawDirty (s : State) (a : Nat) (x : Byte) : (s.putByte a x).drawDirty = s.drawDirty := rfl
@[simp] theorem State.putByte_waitingKey (s : State) (a : Nat) (x : Byte) : (s.putByte a x).waitingKey = s.waitingKey := rfl
@[simp] theorem State.putByte_fsr (s : State) (a : Nat) (x : Byte) : (s.putByte a x).fsr = s.fsr := rfl
@[simp] theorem State.putByte_fcause (s : State) (a : Nat) (x : Byte) : (s.putByte a x).fcause = s.fcause := rfl
@[simp] theorem State.putByte_fpc (s : State) (a : Nat) (x : Byte) : (s.putByte a x).fpc = s.fpc := rfl
@[simp] theorem State.putByte_fop (s : State) (a : Nat) (x : Byte) : (s.putByte a x).fop = s.fop := rfl
@[simp] theorem State.putByte_faddr (s : State) (a : Nat) (x : Byte) : (s.putByte a x).faddr = s.faddr := rfl
@[simp] theorem State.putByte_initialised (s : State) (a : Nat) (x : Byte) : (s.putByte a x).initialised = s.initialised := rfl
@[simp] theorem State.putByte_cfg (s : State) (a : Nat) (x : Byte) : (s.putByte a x).cfg = s.cfg := rfl
@[simp] theorem State.putByte_driver (s : State) (a : Nat) (x : Byte) : (s.putByte a x).driver = s.driver := rfl
@[simp] theorem State.putByte_draws (s : State) (a : Nat) (x : Byte) : (s.putByte a x).draws = s.draws := rfl
@[simp] theorem State.putByte_response (s : State) (a : Nat) (x : Byte) : (s.putByte a x).response = s.response := rfl

/-! ## putBytes -/

@[simp] theorem State.putBytes_mem (s : State) (a : Nat) (xs : List Byte) : (s.putBytes a xs).mem = Memory.writeAll (unlisted s.cfg) s.mem a xs := rfl
@[simp] theorem State.putBytes_v (s : State) (a : Nat) (xs : List Byte) : (s.putBytes a xs).v = s.v := rfl
@[simp] theorem State.putBytes_i (s : State) (a : Nat) (xs : List Byte) : (s.putBytes a xs).i = s.i := rfl
@[simp] theorem State.putBytes_pc (s : State) (a : Nat) (xs : List Byte) : (s.putBytes a xs).pc = s.pc := rfl
@[simp] theorem State.putBytes_stack (s : State) (a : Nat) (xs : List Byte) : (s.putBytes a xs).stack = s.stack := rfl
@[simp] theorem State.putBytes_sp (s : State) (a : Nat) (xs : List Byte) : (s.putBytes a xs).sp = s.sp := rfl
@[simp] theorem State.putBytes_dt (s : State) (a : Nat) (xs : List Byte) : (s.putBytes a xs).dt = s.dt := rfl
@[simp] theorem State.putBytes_st (s : State) (a : Nat) (xs : List Byte) : (s.putBytes a xs).st = s.st := rfl
@[simp] theorem State.putBytes_disp (s : State) (a : Nat) (xs : List Byte) : (s.putBytes a xs).disp = s.disp := rfl
@[simp] theorem State.putBytes_pendingKey (s : State) (a : Nat) (xs : List Byte) : (s.putBytes a xs).pendingKey = s.pendingKey := rfl
@[simp] theorem State.putBytes_drawDirty (s : State) (a : Nat) (xs : List Byte) : (s.putBytes a xs).drawDirty = s.drawDirty := rfl
@[simp] theorem State.putBytes_waitingKey (s : State) (a : Nat) (xs : List Byte) : (s.putBytes a xs).waitingKey = s.waitingKey := rfl
@[simp] theorem State.putBytes_fsr (s : State) (a : Nat) (xs : List Byte) : (s.putBytes a xs).fsr = s.fsr := rfl
@[simp] theorem State.putBytes_fcause (s : State) (a : Nat) (xs : List Byte) : (s.putBytes a xs).fcause = s.fcause := rfl
@[simp] theorem State.putBytes_fpc (s : State) (a : Nat) (xs : List Byte) : (s.putBytes a xs).fpc = s.fpc := rfl
@[simp] theorem State.putBytes_fop (s : State) (a : Nat) (xs : List Byte) : (s.putBytes a xs).fop = s.fop := rfl
@[simp] theorem State.putBytes_faddr (s : State) (a : Nat) (xs : List Byte) : (s.putBytes a xs).faddr = s.faddr := rfl
@[simp] theorem State.putBytes_initialised (s : State) (a : Nat) (xs : List Byte) : (s.putBytes a xs).initialised = s.initialised := rfl
@[simp] theorem State.putBytes_cfg (s : State) (a : Nat) (xs : List Byte) : (s.putBytes a xs).cfg = s.cfg := rfl
@[simp] theorem State.putBytes_driver (s : State) (a : Nat) (xs : List Byte) : (s.putBytes a xs).driver = s.driver := rfl
@[simp] theorem State.putBytes_draws (s : State) (a : Nat) (xs : List Byte) : (s.putBytes a xs).draws = s.draws := rfl
@[simp] theorem State.putBytes_response (s : State) (a : Nat) (xs : List Byte) : (s.putBytes a xs).response = s.response := rfl

/-! ## record -/

@[simp] theorem State.record_mem (s : State) (c : Cause) (op : Word) (n : Nat) : (s.record c op n).mem = s.mem := rfl
@[simp] theorem State.record_v (s : State) (c : Cause) (op : Word) (n : Nat) : (s.record c op n).v = s.v := rfl
@[simp] theorem State.record_i (s : State) (c : Cause) (op : Word) (n : Nat) : (s.record c op n).i = s.i := rfl
@[simp] theorem State.record_pc (s : State) (c : Cause) (op : Word) (n : Nat) : (s.record c op n).pc = s.pc := rfl
@[simp] theorem State.record_stack (s : State) (c : Cause) (op : Word) (n : Nat) : (s.record c op n).stack = s.stack := rfl
@[simp] theorem State.record_sp (s : State) (c : Cause) (op : Word) (n : Nat) : (s.record c op n).sp = s.sp := rfl
@[simp] theorem State.record_dt (s : State) (c : Cause) (op : Word) (n : Nat) : (s.record c op n).dt = s.dt := rfl
@[simp] theorem State.record_st (s : State) (c : Cause) (op : Word) (n : Nat) : (s.record c op n).st = s.st := rfl
@[simp] theorem State.record_disp (s : State) (c : Cause) (op : Word) (n : Nat) : (s.record c op n).disp = s.disp := rfl
@[simp] theorem State.record_pendingKey (s : State) (c : Cause) (op : Word) (n : Nat) : (s.record c op n).pendingKey = s.pendingKey := rfl
@[simp] theorem State.record_drawDirty (s : State) (c : Cause) (op : Word) (n : Nat) : (s.record c op n).drawDirty = s.drawDirty := rfl
@[simp] theorem State.record_waitingKey (s : State) (c : Cause) (op : Word) (n : Nat) : (s.record c op n).waitingKey = s.waitingKey := rfl
@[simp] theorem State.record_fsr (s : State) (c : Cause) (op : Word) (n : Nat) : (s.record c op n).fsr = s.fsr ||| c.mask := rfl
@[simp] theorem State.record_fcause (s : State) (c : Cause) (op : Word) (n : Nat) : (s.record c op n).fcause = if s.fcause = 0 then c.code else s.fcause := rfl
@[simp] theorem State.record_fpc (s : State) (c : Cause) (op : Word) (n : Nat) : (s.record c op n).fpc = if s.fcause = 0 then s.pc else s.fpc := rfl
@[simp] theorem State.record_fop (s : State) (c : Cause) (op : Word) (n : Nat) : (s.record c op n).fop = if s.fcause = 0 then op else s.fop := rfl
@[simp] theorem State.record_faddr (s : State) (c : Cause) (op : Word) (n : Nat) : (s.record c op n).faddr = if s.fcause = 0 then BitVec.ofNat 17 n else s.faddr := rfl
@[simp] theorem State.record_initialised (s : State) (c : Cause) (op : Word) (n : Nat) : (s.record c op n).initialised = s.initialised := rfl
@[simp] theorem State.record_cfg (s : State) (c : Cause) (op : Word) (n : Nat) : (s.record c op n).cfg = s.cfg := rfl
@[simp] theorem State.record_driver (s : State) (c : Cause) (op : Word) (n : Nat) : (s.record c op n).driver = s.driver := rfl
@[simp] theorem State.record_draws (s : State) (c : Cause) (op : Word) (n : Nat) : (s.record c op n).draws = s.draws := rfl
@[simp] theorem State.record_response (s : State) (c : Cause) (op : Word) (n : Nat) : (s.record c op n).response = s.response := rfl

/-! ## takeFault -/

@[simp] theorem State.takeFault_mem (s : State) (l : List Cause) (c : Cause) (op : Word) (n : Nat) : (s.takeFault l c op n).mem = s.mem := rfl
@[simp] theorem State.takeFault_v (s : State) (l : List Cause) (c : Cause) (op : Word) (n : Nat) : (s.takeFault l c op n).v = s.v := rfl
@[simp] theorem State.takeFault_i (s : State) (l : List Cause) (c : Cause) (op : Word) (n : Nat) : (s.takeFault l c op n).i = s.i := rfl
@[simp] theorem State.takeFault_pc (s : State) (l : List Cause) (c : Cause) (op : Word) (n : Nat) : (s.takeFault l c op n).pc = s.pc := rfl
@[simp] theorem State.takeFault_stack (s : State) (l : List Cause) (c : Cause) (op : Word) (n : Nat) : (s.takeFault l c op n).stack = s.stack := rfl
@[simp] theorem State.takeFault_sp (s : State) (l : List Cause) (c : Cause) (op : Word) (n : Nat) : (s.takeFault l c op n).sp = s.sp := rfl
@[simp] theorem State.takeFault_dt (s : State) (l : List Cause) (c : Cause) (op : Word) (n : Nat) : (s.takeFault l c op n).dt = s.dt := rfl
@[simp] theorem State.takeFault_st (s : State) (l : List Cause) (c : Cause) (op : Word) (n : Nat) : (s.takeFault l c op n).st = s.st := rfl
@[simp] theorem State.takeFault_disp (s : State) (l : List Cause) (c : Cause) (op : Word) (n : Nat) : (s.takeFault l c op n).disp = s.disp := rfl
@[simp] theorem State.takeFault_pendingKey (s : State) (l : List Cause) (c : Cause) (op : Word) (n : Nat) : (s.takeFault l c op n).pendingKey = s.pendingKey := rfl
@[simp] theorem State.takeFault_drawDirty (s : State) (l : List Cause) (c : Cause) (op : Word) (n : Nat) : (s.takeFault l c op n).drawDirty = s.drawDirty := rfl
@[simp] theorem State.takeFault_waitingKey (s : State) (l : List Cause) (c : Cause) (op : Word) (n : Nat) : (s.takeFault l c op n).waitingKey = false := rfl
@[simp] theorem State.takeFault_fsr (s : State) (l : List Cause) (c : Cause) (op : Word) (n : Nat) : (s.takeFault l c op n).fsr = s.fsr ||| c.mask := rfl
@[simp] theorem State.takeFault_fcause (s : State) (l : List Cause) (c : Cause) (op : Word) (n : Nat) : (s.takeFault l c op n).fcause = if s.fcause = 0 then c.code else s.fcause := rfl
@[simp] theorem State.takeFault_fpc (s : State) (l : List Cause) (c : Cause) (op : Word) (n : Nat) : (s.takeFault l c op n).fpc = if s.fcause = 0 then s.pc else s.fpc := rfl
@[simp] theorem State.takeFault_fop (s : State) (l : List Cause) (c : Cause) (op : Word) (n : Nat) : (s.takeFault l c op n).fop = if s.fcause = 0 then op else s.fop := rfl
@[simp] theorem State.takeFault_faddr (s : State) (l : List Cause) (c : Cause) (op : Word) (n : Nat) : (s.takeFault l c op n).faddr = if s.fcause = 0 then BitVec.ofNat 17 n else s.faddr := rfl
@[simp] theorem State.takeFault_initialised (s : State) (l : List Cause) (c : Cause) (op : Word) (n : Nat) : (s.takeFault l c op n).initialised = s.initialised := rfl
@[simp] theorem State.takeFault_cfg (s : State) (l : List Cause) (c : Cause) (op : Word) (n : Nat) : (s.takeFault l c op n).cfg = s.cfg := rfl
@[simp] theorem State.takeFault_driver (s : State) (l : List Cause) (c : Cause) (op : Word) (n : Nat) : (s.takeFault l c op n).driver = s.driver := rfl
@[simp] theorem State.takeFault_draws (s : State) (l : List Cause) (c : Cause) (op : Word) (n : Nat) : (s.takeFault l c op n).draws = s.draws := rfl
@[simp] theorem State.takeFault_response (s : State) (l : List Cause) (c : Cause) (op : Word) (n : Nat) : (s.takeFault l c op n).response = .effects ⟨false, false, false, false, false, l ++ [c]⟩ := rfl

/-! ## commit -/

@[simp] theorem State.commit_mem (l : List Cause) (d : Done) : (State.commit l d).mem = d.state.mem := rfl
@[simp] theorem State.commit_v (l : List Cause) (d : Done) : (State.commit l d).v = d.state.v := rfl
@[simp] theorem State.commit_i (l : List Cause) (d : Done) : (State.commit l d).i = d.state.i := rfl
@[simp] theorem State.commit_pc (l : List Cause) (d : Done) : (State.commit l d).pc = BitVec.ofNat 16 d.npc := rfl
@[simp] theorem State.commit_stack (l : List Cause) (d : Done) : (State.commit l d).stack = d.state.stack := rfl
@[simp] theorem State.commit_sp (l : List Cause) (d : Done) : (State.commit l d).sp = d.state.sp := rfl
@[simp] theorem State.commit_dt (l : List Cause) (d : Done) : (State.commit l d).dt = d.state.dt := rfl
@[simp] theorem State.commit_st (l : List Cause) (d : Done) : (State.commit l d).st = d.state.st := rfl
@[simp] theorem State.commit_disp (l : List Cause) (d : Done) : (State.commit l d).disp = d.state.disp := rfl
@[simp] theorem State.commit_pendingKey (l : List Cause) (d : Done) : (State.commit l d).pendingKey = d.state.pendingKey := rfl
@[simp] theorem State.commit_drawDirty (l : List Cause) (d : Done) : (State.commit l d).drawDirty = d.state.drawDirty := rfl
@[simp] theorem State.commit_waitingKey (l : List Cause) (d : Done) : (State.commit l d).waitingKey = d.wait := rfl
@[simp] theorem State.commit_fsr (l : List Cause) (d : Done) : (State.commit l d).fsr = d.state.fsr := rfl
@[simp] theorem State.commit_fcause (l : List Cause) (d : Done) : (State.commit l d).fcause = d.state.fcause := rfl
@[simp] theorem State.commit_fpc (l : List Cause) (d : Done) : (State.commit l d).fpc = d.state.fpc := rfl
@[simp] theorem State.commit_fop (l : List Cause) (d : Done) : (State.commit l d).fop = d.state.fop := rfl
@[simp] theorem State.commit_faddr (l : List Cause) (d : Done) : (State.commit l d).faddr = d.state.faddr := rfl
@[simp] theorem State.commit_initialised (l : List Cause) (d : Done) : (State.commit l d).initialised = d.state.initialised := rfl
@[simp] theorem State.commit_cfg (l : List Cause) (d : Done) : (State.commit l d).cfg = d.state.cfg := rfl
@[simp] theorem State.commit_driver (l : List Cause) (d : Done) : (State.commit l d).driver = d.state.driver := rfl
@[simp] theorem State.commit_draws (l : List Cause) (d : Done) : (State.commit l d).draws = d.state.draws := rfl
@[simp] theorem State.commit_response (l : List Cause) (d : Done) : (State.commit l d).response = .effects ⟨true, d.displayChanged, d.timersWritten, d.wait, false, l⟩ := rfl

/-! ## Registers -/

@[simp] theorem State.getV_eq (s : State) (x : Reg) : s.getV x = s.v[x] := rfl

theorem State.getV_setV_same (s : State) (x : Reg) (b : Byte) : (s.setV x b).getV x = b := by
  simp

theorem State.getV_setV_other (s : State) (x y : Reg) (b : Byte) (h : x ≠ y) : (s.setV x b).getV y = s.getV y := by
  have : x.val ≠ y.val := fun e => h (Fin.ext e)
  simp [this]

end Sys2Proof.Machine
end

