-- ==== Sys2Proof/Laws/Step.lean ====
section
/-! SUPPORT. The end of a step, said once: an instruction commits its working copy at a legal next pc, or one fatal fault
suppresses it. -/

namespace Sys2Proof.Machine

theorem pcLegal_iff (n : Nat) : pcLegal n = true ↔ n % 2 = 0 ∧ n ≤ 0xFFE := by
  simp [pcLegal]

theorem State.CanAdvance.pcLegal {s : State} {k : Nat} (h : s.CanAdvance k) (hk : k % 2 = 0) :
    pcLegal (s.pc.toNat + k) = true := by
  rw [pcLegal_iff]
  have h1 := h.1
  exact ⟨by omega, h.2⟩

/-- Every meaning ends in CHECK and COMMIT, in every state: no instruction stops the machine. -/
theorem exec_eq_finish (i : Instr) (s : State) : ∃ a, exec i s = .next (s.finish [] (encode i) a) := by
  cases i <;> exact ⟨_, rfl⟩

/-- What the end of a step can be. -/
theorem State.finish_cases (s : State) (l : List Cause) (op : Word) (a : Attempt) :
    (∃ d, a = .done d ∧ pcLegal d.npc = true ∧ s.finish l op a = State.commit l d) ∨
    (∃ d, a = .done d ∧ pcLegal d.npc = false ∧ s.finish l op a = s.takeFault l .addrPc op d.npc) ∨
    ∃ c n, a = .raise c n ∧ s.finish l op a = s.takeFault l c op n := by
  cases a with
  | raise c n => exact .inr (.inr ⟨c, n, rfl, rfl⟩)
  | done d =>
    cases h : pcLegal d.npc with
    | true  => exact .inl ⟨d, rfl, h, by simp [State.finish, h]⟩
    | false => exact .inr (.inl ⟨d, rfl, h, by simp [State.finish, h]⟩)

theorem State.run_done (s : State) (i : Instr) (d : Done) (h : pcLegal d.npc = true) :
    s.run i (.done d) = .next (State.commit [] d) := by
  simp [State.run, State.finish, h]

theorem State.run_bad (s : State) (i : Instr) (d : Done) (h : pcLegal d.npc = false) :
    s.run i (.done d) = .next (s.takeFault [] .addrPc (encode i) d.npc) := by
  simp [State.run, State.finish, h]

theorem State.run_raise (s : State) (i : Instr) (c : Cause) (n : Nat) :
    s.run i (.raise c n) = .next (s.takeFault [] c (encode i) n) := rfl

theorem ofNat_pc_add (pc : Word) (k : Nat) : BitVec.ofNat 16 (pc.toNat + k) = pc + BitVec.ofNat 16 k := by
  apply BitVec.eq_of_toNat_eq
  simp

/-- A plain commit, the next pc given as a number. -/
theorem State.commit_plain (t : State) (n : Nat) (pc : Word) (h : pc.toNat = n) :
    State.commit [] { state := t, npc := n } = t.committedAt pc := by
  subst h
  simp [State.commit, State.committedAt, committedEffects]

/-- An instruction that takes the default advance commits its working copy at pc + 2. -/
theorem State.run_advance (s t : State) (i : Instr) (h : s.CanAdvance 2) :
    s.run i (s.advance t) = .next (t.committedAt (s.pc + 2)) := by
  rw [State.advance, State.run_done _ _ _ (h.pcLegal rfl)]
  simp [State.commit, State.committedAt, committedEffects, ofNat_pc_add]

/-- A skip whose next pc is legal commits there and changes nothing else. -/
theorem State.run_skipIf (s : State) (i : Instr) (b : Bool) (h : s.CanAdvance (if b then 4 else 2)) :
    s.run i (s.skipIf b) = .next (s.committedAt (s.pc + if b then 4 else 2)) := by
  rw [State.skipIf, State.run_done _ _ _ (h.pcLegal (by cases b <;> rfl))]
  cases b <;> simp [State.commit, State.committedAt, committedEffects, ofNat_pc_add]

/-- A fatal fault suppresses the step. -/
theorem State.takeFault_suppressed (s : State) (c : Cause) (op : Word) (n : Nat) :
    Suppressed s (s.takeFault [] c op n) c op n := by
  refine ⟨rfl, ⟨rfl, fun h => ?_, fun h => ?_⟩, rfl, rfl⟩
  · simp [h]
  · replace h : ¬s.fcause = 0#8 := h
    simp [h]

end Sys2Proof.Machine
end

