-- ==== Sys2Proof/Tests/Slice0.lean ====
section
/-! SUPPORT. Tests. Expected results are those of spec/95_test_vectors.md (cited by its sections and labels) or are read
off the rule named; words are written out from the patterns of 30_encoding.md R55. Then, for every statement that has
hypotheses, a state and operands that meet them, at boundary values where there are any. -/

namespace Sys2Proof.Tests

open Sys2Proof.Machine

/-! ## Helpers -/

/-- The state an outcome goes on with. -/
def after : Host.Outcome State Fault Refusal → State
  | .next s    => s
  | .fault _   => State.reset
  | .refused _ => State.reset

/-- The state after the word at pc was fetched and run. -/
def go (w : Nat) (s : State) : State := after (step (s.withFetchWord 16 w))

/-- The start state of 95_test_vectors.md with some registers set. -/
def regs : List (Reg × Byte) → State
  | []           => State.reset
  | (x, b) :: rs => (regs rs).setV x b

/-- A state with I and some bytes from there on. -/
def dataAt (i : Word) (xs : List Byte) (s : State) : State := { s.putBytes i.toNat xs with i := i }

def atPc (pc : Word) : State := { State.reset with pc := pc }

def vyShifts (s : State) : State := { s with cfg := { Config.default with shiftSource := .vy } }
def fontWritable (s : State) : State := { s with cfg := { Config.default with fontWritePolicy := .allow } }
def indexStays (s : State) : State := { s with cfg := { Config.default with blockIMode := .unchanged } }

/-! ## Ill-formed words (R55, R58): each fixed field with a value it may not have is refused -/

/-- the word of zeros -/
theorem test_illformed_class0 : wordWellFormed 0x0000 = false ∧ decode 0x0000 = .error .unknownClass0 := by decide
/-- SYS form -/
theorem test_illformed_class0_sys : wordWellFormed 0x0123 = false ∧ decode 0x0123 = .error .unknownClass0 := by decide
/-- one bit off CLS -/
theorem test_illformed_class0_cls_bit : wordWellFormed 0x00E1 = false ∧ decode 0x00E1 = .error .unknownClass0 := by decide
/-- N = 1 -/
theorem test_illformed_class5 : wordWellFormed 0x5121 = false ∧ decode 0x5121 = .error .unknownClass5 := by decide
/-- sub-opcode 8 -/
theorem test_illformed_class8 : wordWellFormed 0x8008 = false ∧ decode 0x8008 = .error .unknownClass8 := by decide
/-- sub-opcode F -/
theorem test_illformed_class8_F : wordWellFormed 0x800F = false ∧ decode 0x800F = .error .unknownClass8 := by decide
/-- N = 1 -/
theorem test_illformed_class9 : wordWellFormed 0x9121 = false ∧ decode 0x9121 = .error .unknownClass9 := by decide
/-- NN = 9F -/
theorem test_illformed_classE : wordWellFormed 0xE09F = false ∧ decode 0xE09F = .error .unknownClassE := by decide
/-- NN = FF -/
theorem test_illformed_classF : wordWellFormed 0xF3FF = false ∧ decode 0xF3FF = .error .unknownClassF := by decide
/-- fewer than two bytes are no word (R51) -/
theorem test_truncated : decodeBytes [0x12] = .error .truncated ∧ decodeBytes [] = .error .truncated := by decide
/-- high byte first (R37), and the bytes after the word are left -/
theorem test_decode_bytes : decodeBytes [0x60, 0x05, 0x70] = .ok (.ldImm 0 5, [0x70]) := by decide

/-! ## Decoding (R55): class, then X, Y, N or X, NN or NNN, as bits -/

theorem test_decode_cls : decode 0b0000000011100000 = .ok .cls := by decide
theorem test_decode_ret : decode 0b0000000011101110 = .ok .ret := by decide
theorem test_decode_jp : decode 0b0001_101010111100 = .ok (.jp 0xABC) := by decide
theorem test_decode_call : decode 0b0010_110111101111 = .ok (.call 0xDEF) := by decide
theorem test_decode_seImm : decode 0b0011_0101_10101010 = .ok (.seImm 5 0xAA) := by decide
theorem test_decode_sneImm : decode 0b0100_1110_00000001 = .ok (.sneImm 14 0x01) := by decide
theorem test_decode_seReg : decode 0b0101_0001_1100_0000 = .ok (.seReg 1 12) := by decide
theorem test_decode_ldImm : decode 0b0110_1111_00010010 = .ok (.ldImm 15 0x12) := by decide
theorem test_decode_addImm : decode 0b0111_0010_10000000 = .ok (.addImm 2 0x80) := by decide
theorem test_decode_ldReg : decode 0b1000_0011_1001_0000 = .ok (.ldReg 3 9) := by decide
theorem test_decode_orReg : decode 0b1000_0011_1001_0001 = .ok (.orReg 3 9) := by decide
theorem test_decode_andReg : decode 0b1000_0011_1001_0010 = .ok (.andReg 3 9) := by decide
theorem test_decode_xorReg : decode 0b1000_0011_1001_0011 = .ok (.xorReg 3 9) := by decide
theorem test_decode_addReg : decode 0b1000_0011_1001_0100 = .ok (.addReg 3 9) := by decide
theorem test_decode_subReg : decode 0b1000_0011_1001_0101 = .ok (.subReg 3 9) := by decide
theorem test_decode_shr : decode 0b1000_0011_1001_0110 = .ok (.shr 3 9) := by decide
theorem test_decode_subnReg : decode 0b1000_0011_1001_0111 = .ok (.subnReg 3 9) := by decide
theorem test_decode_shl : decode 0b1000_0011_1001_1110 = .ok (.shl 3 9) := by decide
theorem test_decode_sneReg : decode 0b1001_1000_0001_0000 = .ok (.sneReg 8 1) := by decide
theorem test_decode_ldI : decode 0b1010_000100100011 = .ok (.ldI 0x123) := by decide
theorem test_decode_jpV0 : decode 0b1011_111100000001 = .ok (.jpV0 0xF01) := by decide
theorem test_decode_rnd : decode 0b1100_0110_00001111 = .ok (.rnd 6 0x0F) := by decide
theorem test_decode_drw : decode 0b1101_1010_1011_0101 = .ok (.drw 10 11 5) := by decide
theorem test_decode_skp : decode 0b1110_0010_10011110 = .ok (.skp 2) := by decide
theorem test_decode_sknp : decode 0b1110_1101_10100001 = .ok (.sknp 13) := by decide
theorem test_decode_ldVxDt : decode 0b1111_0111_00000111 = .ok (.ldVxDt 7) := by decide
theorem test_decode_ldVxK : decode 0b1111_0111_00001010 = .ok (.ldVxK 7) := by decide
theorem test_decode_ldDtVx : decode 0b1111_0111_00010101 = .ok (.ldDtVx 7) := by decide
theorem test_decode_ldStVx : decode 0b1111_0111_00011000 = .ok (.ldStVx 7) := by decide
theorem test_decode_addIVx : decode 0b1111_0111_00011110 = .ok (.addIVx 7) := by decide
theorem test_decode_ldFVx : decode 0b1111_0111_00101001 = .ok (.ldFVx 7) := by decide
theorem test_decode_ldBVx : decode 0b1111_0111_00110011 = .ok (.ldBVx 7) := by decide
theorem test_decode_ldMemVx : decode 0b1111_0111_01010101 = .ok (.ldMemVx 7) := by decide
theorem test_decode_ldVxMem : decode 0b1111_0111_01100101 = .ok (.ldVxMem 7) := by decide

/-- The table's numbering: bits 15..8 are the first byte. -/
theorem test_decodeTableWord : decodeTableWord 16 0xD125 = some (.drw 1 2 5) ∧ decodeTableWord 16 0x5121 = none := by
  decide

/-! ## Arithmetic, logic, shifts, random (95_test_vectors.md section 2.1) -/

theorem test_ldImm_vf : (go 0x6F12 State.reset).v[15] = 0x12 ∧ (go 0x6F12 State.reset).pc = 0x202 := by decide
theorem test_addImm_wraps_without_flag :
    (go 0x7001 (regs [(0, 0xFF), (15, 0x55)])).v[0] = 0 ∧
    (go 0x7001 (regs [(0, 0xFF), (15, 0x55)])).v[15] = 0x55 := by decide
theorem test_ldReg : (go 0x8010 (regs [(1, 0x2A)])).v[0] = 0x2A := by decide
theorem test_orReg : (go 0x8011 (regs [(0, 0xF0), (1, 0x0F)])).v[0] = 0xFF := by decide
theorem test_andReg : (go 0x8012 (regs [(0, 0xF0), (1, 0x3C)])).v[0] = 0x30 := by decide
theorem test_xorReg : (go 0x8013 (regs [(0, 0xF0), (1, 0x3C)])).v[0] = 0xCC := by decide
theorem test_addReg_carry :
    (go 0x8014 (regs [(0, 0xFF), (1, 0x01)])).v[0] = 0 ∧ (go 0x8014 (regs [(0, 0xFF), (1, 0x01)])).v[15] = 1 := by decide
theorem test_addReg_flag_overwrites_sum : (go 0x8F14 (regs [(15, 0xFF), (1, 0x02)])).v[15] = 1 := by decide
theorem test_subReg_equal :
    (go 0x8015 (regs [(0, 0x07), (1, 0x07)])).v[0] = 0 ∧ (go 0x8015 (regs [(0, 0x07), (1, 0x07)])).v[15] = 1 := by decide
theorem test_subReg_borrow :
    (go 0x8015 (regs [(0, 0x10), (1, 0x20)])).v[0] = 0xF0 ∧ (go 0x8015 (regs [(0, 0x10), (1, 0x20)])).v[15] = 0 := by decide
theorem test_subnReg :
    (go 0x8017 (regs [(0, 0x10), (1, 0x20)])).v[0] = 0x10 ∧ (go 0x8017 (regs [(0, 0x10), (1, 0x20)])).v[15] = 1 := by decide
theorem test_subnReg_borrow :
    (go 0x8017 (regs [(0, 0x20), (1, 0x10)])).v[0] = 0xF0 ∧ (go 0x8017 (regs [(0, 0x20), (1, 0x10)])).v[15] = 0 := by decide
theorem test_shr_vx :
    (go 0x8016 (regs [(0, 0x05), (1, 0x80)])).v[0] = 0x02 ∧ (go 0x8016 (regs [(0, 0x05), (1, 0x80)])).v[15] = 1 := by decide
theorem test_shr_vy :
    (go 0x8016 (vyShifts (regs [(0, 0x05), (1, 0x80)]))).v[0] = 0x40 ∧
    (go 0x8016 (vyShifts (regs [(0, 0x05), (1, 0x80)]))).v[15] = 0 := by decide
theorem test_shl_vx :
    (go 0x801E (regs [(0, 0x81), (1, 0x01)])).v[0] = 0x02 ∧ (go 0x801E (regs [(0, 0x81), (1, 0x01)])).v[15] = 1 := by decide
theorem test_shl_vy :
    (go 0x801E (vyShifts (regs [(0, 0x81), (1, 0x01)]))).v[0] = 0x02 ∧
    (go 0x801E (vyShifts (regs [(0, 0x81), (1, 0x01)]))).v[15] = 0 := by decide
/-- the draw A7 -/
theorem test_rnd_masks : (State.reset.rndWith 0xA7 3 0x0F).v[3] = 0x07 := by decide
/-- the step takes the draw numbered by State.draws -/
theorem test_rnd_draws : (go 0xC30F State.reset).v[3] = Config.randomByte 0 &&& 0x0F ∧ (go 0xC30F State.reset).draws = 1 :=
  ⟨rfl, rfl⟩

/-! ## Control transfer (section 2.2) -/

theorem test_jp : (go 0x1204 State.reset).pc = 0x204 := by decide
theorem test_jp_odd :
    (go 0x1201 State.reset).pc = 0x200 ∧ (go 0x1201 State.reset).fsr = 0x01 ∧ (go 0x1201 State.reset).faddr = 0x201 := by decide
theorem test_call :
    (go 0x2300 State.reset).stack[0] = 0x202 ∧ (go 0x2300 State.reset).sp = 1 ∧ (go 0x2300 State.reset).pc = 0x300 := by decide
/-- STACK_OVF before ADDR_PC (R135) -/
theorem test_call_overflow_wins :
    (go 0x2201 { State.reset with sp := 16 }).fsr = 0x08 ∧
    (go 0x2201 { State.reset with sp := 16 }).faddr = 0x201 ∧ (go 0x2201 { State.reset with sp := 16 }).sp = 16 := by decide
/-- sp = 1, stack[0] = 202, pc = 300 -/
def called : State := { State.reset with sp := 1, stack := State.reset.stack.set 0 0x202, pc := 0x300 }
theorem test_ret :
    (go 0x00EE called).sp = 0 ∧ (go 0x00EE called).pc = 0x202 ∧ (go 0x00EE called).stack[0] = 0x202 := by decide
/-- S5 -/
theorem test_ret_underflow :
    (go 0x00EE State.reset).pc = 0x200 ∧ (go 0x00EE State.reset).fsr = 0x10 ∧ (go 0x00EE State.reset).fcause = 5 ∧
    (go 0x00EE State.reset).fop = 0x00EE := by decide
theorem test_jpV0 : (go 0xB300 (regs [(0, 0x04)])).pc = 0x304 := by decide
theorem test_jpV0_does_not_wrap :
    (go 0xBF00 (regs [(0, 0xFF)])).fsr = 0x01 ∧ (go 0xBF00 (regs [(0, 0xFF)])).faddr = 0xFFF := by decide
theorem test_seImm : (go 0x3310 (regs [(3, 0x10)])).pc = 0x204 ∧ (go 0x3310 (regs [(3, 0x11)])).pc = 0x202 := by decide
theorem test_seImm_off_the_end :
    (go 0x3310 { regs [(3, 0x10)] with pc := 0xFFC }).fsr = 0x01 ∧
    (go 0x3310 { regs [(3, 0x10)] with pc := 0xFFC }).faddr = 0x1000 := by decide
theorem test_sneImm : (go 0x4310 (regs [(3, 0x11)])).pc = 0x204 := by decide
theorem test_seReg :
    (go 0x5120 (regs [(1, 0x07), (2, 0x07)])).pc = 0x204 ∧ (go 0x5110 State.reset).pc = 0x204 := by decide
theorem test_sneReg :
    (go 0x9120 (regs [(1, 0x07), (2, 0x08)])).pc = 0x204 ∧ (go 0x9110 State.reset).pc = 0x202 := by decide
theorem test_default_advance_off_the_end :
    (go 0x6001 (atPc 0xFFE)).v[0] = 0 ∧ (go 0x6001 (atPc 0xFFE)).fsr = 0x01 ∧ (go 0x6001 (atPc 0xFFE)).faddr = 0x1000 ∧
    (go 0x6001 (atPc 0xFFE)).pc = 0xFFE := by decide

/-! ## Unknown opcodes (section 2.3) -/

theorem test_unknown :
    (go 0x0000 State.reset).pc = 0x202 ∧ (go 0x0000 State.reset).fsr = 0x20 ∧ (go 0x0000 State.reset).fcause = 6 ∧
    (go 0x5121 State.reset).fop = 0x5121 := by decide
theorem test_unknown_at_the_end :
    (go 0x0000 (atPc 0xFFE)).fsr = 0x21 ∧ (go 0x0000 (atPc 0xFFE)).fcause = 6 ∧ (go 0x0000 (atPc 0xFFE)).pc = 0xFFE ∧
    (go 0x0000 (atPc 0xFFE)).response = .effects ⟨false, false, false, false, false, [.unknownOp, .addrPc]⟩ := by decide
theorem test_first_fault_is_kept :
    (go 0x0000 { State.reset with fsr := 0x08, fcause := 4 }).fsr = 0x28 ∧
    (go 0x0000 { State.reset with fsr := 0x08, fcause := 4 }).fcause = 4 := by decide

/-! ## Index register and memory (section 2.4) -/

theorem test_ldI : (go 0xA300 State.reset).i = 0x300 := by decide
theorem test_addIVx_wraps : (go 0xF01E { regs [(0, 0x01)] with i := 0xFFFF }).i = 0 := by decide
theorem test_addIVx_no_flag :
    (go 0xF01E { regs [(0, 0x01), (15, 0x09)] with i := 0x0FFF }).i = 0x1000 ∧
    (go 0xF01E { regs [(0, 0x01), (15, 0x09)] with i := 0x0FFF }).v[15] = 0x09 := by decide
theorem test_ldFVx : (go 0xF029 (regs [(0, 0x0F)])).i = 0x04B ∧ (go 0xF029 (regs [(0, 0xFF)])).i = 0x4FB := by decide
def bcd : State := go 0xF033 (dataAt 0x300 [] (regs [(0, 0xFF)]))
theorem test_ldBVx : bcd.byteAt 0x300 = 2 ∧ bcd.byteAt 0x301 = 5 ∧ bcd.byteAt 0x302 = 5 ∧ bcd.i = 0x300 := by decide
def bcdInFont : State := dataAt 0x04E [] (regs [(0, 0x7B)])
theorem test_ldBVx_font :
    (go 0xF033 bcdInFont).fsr = 0x04 ∧ (go 0xF033 bcdInFont).faddr = 0x04E ∧
    (go 0xF033 (fontWritable bcdInFont)).byteAt 0x04E = 1 ∧ (go 0xF033 (fontWritable bcdInFont)).byteAt 0x050 = 3 := by decide
def three : State := dataAt 0x300 [] (regs [(0, 1), (1, 2), (2, 3)])
theorem test_ldMemVx :
    (go 0xF255 three).byteAt 0x300 = 1 ∧ (go 0xF255 three).byteAt 0x302 = 3 ∧ (go 0xF255 three).i = 0x303 ∧
    (go 0xF255 (indexStays three)).i = 0x300 := by decide
theorem test_ldMemVx_beyond_the_end :
    (go 0xFF55 (dataAt 0xFF1 [] (regs [(0, 9)]))).faddr = 0x1000 ∧
    (go 0xFF55 (dataAt 0xFF1 [] (regs [(0, 9)]))).fsr = 0x02 ∧
    (go 0xFF55 (dataAt 0xFF1 [] (regs [(0, 9)]))).byteAt 0xFF1 = 0 := by decide
def loaded : State := go 0xF265 (dataAt 0x300 [2, 5, 4] State.reset)
theorem test_ldVxMem : loaded.v[0] = 2 ∧ loaded.v[1] = 5 ∧ loaded.v[2] = 4 ∧ loaded.i = 0x303 := by decide
theorem test_ldVxMem_font_and_end :
    (go 0xF065 State.reset).v[0] = 0xF0 ∧ (go 0xF065 (dataAt 0x1000 [] State.reset)).faddr = 0x1000 := by decide

/-! ## Display (section 2.5) -/

theorem test_cls :
    (go 0x00E0 State.reset).drawDirty = true ∧
    (go 0x00E0 { State.reset with disp := State.reset.disp.flip 3 4 }).disp.pixel 3 4 = false := by decide
def glyph0 : State := go 0xD015 State.reset
/-- glyph 0 at the origin; then S2: the second draw restores the display, VF = 1 -/
theorem test_drw_glyph_twice :
    glyph0.disp.pixel 0 0 = true ∧ glyph0.disp.pixel 3 2 = true ∧ glyph0.disp.pixel 1 1 = false ∧ glyph0.v[15] = 0 ∧
    glyph0.drawDirty = true ∧ (go 0xD015 { glyph0 with pc := 0x200 }).disp = State.reset.disp ∧
    (go 0xD015 { glyph0 with pc := 0x200 }).v[15] = 1 := by decide
def wrapped : State := go 0xD012 (dataAt 0x300 [0xFF, 0x80] (regs [(0, 0x3C), (1, 0x1F)]))
/-- S4 and the row wrap: columns 60..63, 0..3 of row 31, then row 0; Y = 15: y0 is the old VF; a row beyond the end -/
theorem test_drw_wraps_old_vf_and_end :
    wrapped.disp.pixel 63 31 = true ∧ wrapped.disp.pixel 3 31 = true ∧ wrapped.disp.pixel 4 31 = false ∧
    wrapped.disp.pixel 60 0 = true ∧ (go 0xD0F1 (dataAt 0x300 [0x80] (regs [(15, 0x05)]))).disp.pixel 0 5 = true ∧
    (go 0xD0F1 (dataAt 0x300 [0x80] (regs [(15, 0x05)]))).v[15] = 0 ∧
    (go 0xD011 (dataAt 0x1000 [] (regs [(15, 0x05)]))).v[15] = 0x05 := by decide

/-! ## Keys, timers, commands (section 2.6) -/

def latched (k : Nibble) (s : State) : State := { s with pendingKey := some k }
/-- the commands given are issued next, after the word is placed at pc -/
def commanded (w : Nat) (cs : List Command) (s : State) : State := after (step { s.withFetchWord 16 w with driver := cs })

theorem test_skp :
    (go 0xE29E (latched 5 (regs [(2, 0x05)]))).pc = 0x204 ∧ (go 0xE29E (latched 5 (regs [(2, 0x05)]))).pendingKey = some 5 := by decide
theorem test_skp_above_15 : (go 0xE29E (latched 5 (regs [(2, 0x15)]))).pc = 0x202 := by decide
theorem test_sknp : (go 0xE2A1 State.reset).pc = 0x204 := by decide
theorem test_sknp_sees_the_event :
    (commanded 0xE2A1 [.step (.present (some 7))] (regs [(2, 0x07)])).pc = 0x202 := by decide
theorem test_ldVxK_waits : (go 0xF30A State.reset).pc = 0x200 ∧ (go 0xF30A State.reset).waitingKey = true := by decide
theorem test_ldVxK_consumes :
    (commanded 0xF30A [.step (.present (some 0xB))] State.reset).v[3] = 0x0B ∧
    (commanded 0xF30A [.step (.present (some 0xB))] State.reset).pendingKey = none ∧
    (commanded 0xF30A [.step (.present (some 0xB))] State.reset).pc = 0x202 := by decide
theorem test_ldVxDt : (go 0xF507 { State.reset with dt := 0x3C }).v[5] = 0x3C := by decide
theorem test_ldDtVx :
    (go 0xF515 (regs [(5, 0x3C)])).dt = 0x3C ∧
    (go 0xF515 (regs [(5, 0x3C)])).response = .effects ⟨true, false, true, false, false, []⟩ := by decide
theorem test_ldStVx :
    (go 0xF118 (regs [(1, 0x02)])).st = 0x02 ∧ (go 0xF118 (regs [(1, 0x02)])).soundOn = true := by decide
/-- S7 -/
theorem test_tick :
    (after (State.command { State.reset with dt := 0xFF, st := 1 } .tick)).dt = 0xFE ∧
    (after (State.command { State.reset with dt := 0xFF, st := 1 } .tick)).soundOn = false ∧
    (after (State.command State.reset .tick)).dt = 0 := by decide
theorem test_reportKey_last_wins :
    (after (State.command (after (State.command State.reset (.reportKey (some 3)))) (.reportKey none))).pendingKey = none := by decide
theorem test_clearDirty :
    (after (State.command { State.reset with drawDirty := true } .clearDirty)).drawDirty = false := by decide
/-- S8: the ROM's first word runs after INIT -/
theorem test_init_loads : (after (State.command State.reset (.init (some [0x60, 0x05, 0x70])))).fetchWord = 0x6005 := by decide

/-! ## States and operands that meet the hypotheses of the statements -/

/-- the last pc an instruction of default advance commits from -/
theorem atFFC_can_advance : (atPc 0xFFC).CanAdvance 2 := ⟨by decide, by decide⟩

theorem test_meets_EncodeOfDecodeIsTheWord :
    decode 0xDFF0 = .ok (.drw 15 15 0) := by decide
/-- every clause -/
theorem test_meets_DecoderAgreesWithOpcodeMap :
    decode 0xDFF0 = .ok (.drw 15 15 0) ∧ ∃ r ∈ opcodeMap, r.admits 0xDFF0 = true := by decide
/-- a word of each group -/
theorem test_meets_UnknownWordsAreTheSixGroups :
    (∃ e, decode 0x0FFF = .error e) ∧ (∃ e, decode 0x5FFF = .error e) ∧ (∃ e, decode 0x8FFF = .error e) ∧
    (∃ e, decode 0x9001 = .error e) ∧ (∃ e, decode 0xE0FF = .error e) ∧ (∃ e, decode 0xF000 = .error e) := 
  ⟨⟨_, rfl⟩, ⟨_, rfl⟩, ⟨_, rfl⟩, ⟨_, rfl⟩, ⟨_, rfl⟩, ⟨_, rfl⟩⟩
theorem test_meets_ImmediateLoadAndAdd :
    (atPc 0xFFC).CanAdvance 2 := atFFC_can_advance
theorem test_meets_CopyAndLogicWriteOnlyVX :
    (atPc 0xFFC).CanAdvance 2 := atFFC_can_advance
theorem test_meets_AddRegSetsCarry :
    (atPc 0xFFC).CanAdvance 2 := atFFC_can_advance
theorem test_meets_SubtractionsSetNoBorrow :
    (atPc 0xFFC).CanAdvance 2 := atFFC_can_advance
theorem test_meets_ShiftsMoveTheLostBitIntoVF :
    ((0x00 : Byte) = if (atPc 0xFFC).cfg.shiftSource = .vx then (atPc 0xFFC).v[(15 : Reg)] else (atPc 0xFFC).v[(14 : Reg)]) ∧
    (atPc 0xFFC).CanAdvance 2 :=
  ⟨by decide, atFFC_can_advance⟩
theorem test_meets_RndMasksAFreeByte :
    (atPc 0xFFC).CanAdvance 2 := atFFC_can_advance
/-- the highest even target, and the highest odd one -/
theorem test_meets_JpJumpsOrFaults : (0xFFE : Imm12).toNat % 2 = 0 ∧ (0xFFF : Imm12).toNat % 2 = 1 := by decide
/-- the last free slot, even and odd target; the full stack -/
theorem test_meets_CallPushesOrFaults :
    ({ State.reset with sp := 15 } : State).sp.val < 16 ∧ (0xFFE : Imm12).toNat % 2 = 0 ∧ (0xFFF : Imm12).toNat % 2 = 1 ∧
    ({ State.reset with sp := 16 } : State).sp = 16 := by decide
/-- the stack full, its last entry a return address at the end of memory -/
def full (a : Word) : State := { State.reset with sp := 16, stack := Vector.replicate 16 a }
/-- the highest legal address, one above it, an odd one; the empty stack -/
theorem test_meets_RetPopsOrFaults :
    (full 0xFFE).sp.val = (15 : Fin 16).val + 1 ∧ (full 0xFFE).stack[(15 : Fin 16)].toNat % 2 = 0 ∧
    (full 0xFFE).stack[(15 : Fin 16)].toNat ≤ 0xFFE ∧ (full 0x1000).sp.val = (15 : Fin 16).val + 1 ∧
    (full 0x1000).stack[(15 : Fin 16)].toNat > 0xFFE ∧ (full 0x203).stack[(15 : Fin 16)].toNat % 2 = 1 ∧
    State.reset.sp = 0 := by decide
/-- fifteen calls deep at 0xFFC -/
def deep : State := { atPc 0xFFC with sp := 15 }
/-- the routine returns at once: m is t -/
theorem test_meets_CallThenRetComesBack :
    deep.sp.val < 16 ∧ deep.CanAdvance 2 ∧ (0x300 : Imm12).toNat % 2 = 0 ∧
    ∃ t, exec (.call 0x300) deep = .next t ∧ t.sp = 16 := 
  ⟨by decide, ⟨by decide, by decide⟩, by decide, _, rfl, rfl⟩
/-- sums 0xFFE, 0xF01 (odd) and 0x1000 -/
theorem test_meets_JpV0JumpsOrFaults :
    0xFFE = (0xF00 : Imm12).toNat + (regs [(0, 0xFE)]).v[0].toNat ∧ 0xF01 = (0xF00 : Imm12).toNat + (regs [(0, 0x01)]).v[0].toNat ∧
    0x1000 = (0xFFE : Imm12).toNat + (regs [(0, 0x02)]).v[0].toNat := by decide
/-- 0xFFA, from which every skip commits; 0xFFC, from which a taken one (5XY0 with X = Y) faults and one not taken (9XY0)
commits; 0xFFE, from which every one faults -/
theorem test_meets_SkipsTestRegisters :
    (atPc 0xFFA).pc.toNat % 2 = 0 ∧ (atPc 0xFFA).pc.toNat + 4 ≤ 0xFFE ∧ (atPc 0xFFC).pc.toNat % 2 = 0 ∧
    (atPc 0xFFC).pc.toNat + (if (atPc 0xFFC).v[(0 : Reg)] = (atPc 0xFFC).v[(0 : Reg)] then 4 else 2) > 0xFFE ∧
    (atPc 0xFFC).pc.toNat + (if (atPc 0xFFC).v[(0 : Reg)] ≠ (atPc 0xFFC).v[(0 : Reg)] then 4 else 2) ≤ 0xFFE ∧
    (atPc 0xFFE).pc.toNat % 2 = 0 ∧ (atPc 0xFFE).pc.toNat + 2 > 0xFFE := by decide
theorem test_meets_IndexRegisterWrites :
    (atPc 0xFFC).CanAdvance 2 := atFFC_can_advance
/-- I at an address, pc at 0xFFC -/
def iAt (i : Word) : State := { atPc 0xFFC with i := i }
/-- the last three bytes, and the first three above the font -/
theorem test_meets_BcdIsStored :
    (iAt 0xFFD).CanAdvance 2 ∧ Memory.wf (unlisted (iAt 0xFFD).cfg) (iAt 0xFFD).mem = true ∧
    (∀ k, k < 3 → Writable (iAt 0xFFD).cfg.fontWritePolicy ((iAt 0xFFD).i.toNat + k)) ∧
    (∀ k, k < 3 → Writable (iAt 0x050).cfg.fontWritePolicy ((iAt 0x050).i.toNat + k)) := 
  ⟨⟨by decide, by decide⟩, rfl, by simp only [Writable]; decide, by simp only [Writable]; decide⟩
/-- all sixteen registers up to the last byte (k ≤ 15 is k < 16) -/
theorem test_meets_RegistersAreStored :
    (iAt 0xFF0).CanAdvance 2 ∧ Memory.wf (unlisted (iAt 0xFF0).cfg) (iAt 0xFF0).mem = true ∧
    ∀ k, k < 16 → Writable (iAt 0xFF0).cfg.fontWritePolicy ((iAt 0xFF0).i.toNat + k) := 
  ⟨⟨by decide, by decide⟩, rfl, by simp only [Writable]; decide⟩
theorem test_meets_RegistersAreLoaded :
    (iAt 0xFF0).CanAdvance 2 ∧ ∀ k, k < 16 → Readable ((iAt 0xFF0).i.toNat + k) := 
  ⟨⟨by decide, by decide⟩, by simp only [Readable]; decide⟩
/-- FX55 with X = 15 has stored up to 0xFFF; then the registers are cleared and I is set back -/
def storedAll : State := after (exec (.ldMemVx 15) { iAt 0xFF0 with pc := 0x200 })
def setBack : State := { storedAll with i := 0xFF0, v := Vector.replicate 16 0 }
theorem test_meets_StoredRegistersLoadBack :
    exec (.ldMemVx 15) { iAt 0xFF0 with pc := 0x200 } = .next storedAll ∧
    storedAll.response = committedEffects false false false ∧ setBack.mem = storedAll.mem ∧
    setBack.cfg = storedAll.cfg ∧ setBack.i = (iAt 0xFF0).i ∧ setBack.CanAdvance 2 ∧
    Memory.wf (unlisted (iAt 0xFF0).cfg) (iAt 0xFF0).mem = true := 
  ⟨rfl, rfl, rfl, rfl, rfl, ⟨by decide, by decide⟩, rfl⟩
/-- the last font byte (k = 0), and 0x1000 (k = 2) to write; 0x1000 (k = 1) to read -/
theorem test_meets_FirstBadAddressFaults :
    (¬Writable (iAt 0x04F).cfg.fontWritePolicy ((iAt 0x04F).i.toNat + 0)) ∧
    (∀ j, j < 2 → Writable (iAt 0xFFE).cfg.fontWritePolicy ((iAt 0xFFE).i.toNat + j)) ∧
    (¬Writable (iAt 0xFFE).cfg.fontWritePolicy ((iAt 0xFFE).i.toNat + 2)) ∧
    (∀ j, j < 1 → Readable ((iAt 0xFFF).i.toNat + j)) ∧ ¬Readable ((iAt 0xFFF).i.toNat + 1) := by
  simp only [Writable, Readable]; decide
/-- a store next to the font -/
theorem test_meets_FontIsNeverOverwritten :
    (iAt 0x050).cfg.fontWritePolicy = .fault ∧ ∃ t, exec (.ldBVx 0) (iAt 0x050) = .next t ∧ t.pc = 0xFFE := ⟨rfl, _, rfl, rfl⟩
/-- I is the next pc -/
def selfModify : State := { regs [(0, 0x12), (1, 0x06)] with i := 0x202 }
theorem test_meets_StoredWordIsFetchedNext :
    Memory.wf (unlisted selfModify.cfg) selfModify.mem = true ∧ ∃ t, exec (.ldMemVx 1) selfModify = .next t ∧
    t.response = committedEffects false false false ∧ t.pc.toNat = selfModify.i.toNat + (0 : Fin 15).val ∧
    (0 : Fin 15).val + 1 ≤ (1 : Reg).val ∧ t.fetchWord = 0x1206 := by
  exact ⟨rfl, _, rfl, rfl, rfl, by decide, by decide⟩
theorem test_meets_ClsClearsAndSetsDirty :
    (atPc 0xFFC).CanAdvance 2 := atFFC_can_advance
/-- the tallest sprite, its last row at 0xFFF -/
theorem test_meets_DrwDrawsTheSprite :
    (iAt 0xFF1).CanAdvance 2 ∧ ∀ k, k < (15 : Nibble).toNat → Readable ((iAt 0xFF1).i.toNat + k) :=
  ⟨⟨by decide, by decide⟩, by simp only [Readable]; decide⟩
/-- one row 0x80 at 0x300, drawn at (0, 0) -/
def dot : State := dataAt 0x300 [0x80] State.reset
def dotSet : State := { dot with disp := dot.disp.flip 0 0 }
theorem dot_ready : dot.CanAdvance 4 ∧ ∀ k, k < (1 : Nibble).toNat → Readable (dot.i.toNat + k) :=
  ⟨⟨by decide, by decide⟩, by simp only [Readable]; decide⟩
theorem dot_hits : dot.SpriteHits (dot.v[(0 : Reg)].toNat) (dot.v[(1 : Reg)].toNat) (1 : Nibble).toNat 0 0 :=
  ⟨0, by decide, 0, by decide, by decide, by decide, by decide⟩
/-- the sprite bit lands on a set pixel -/
theorem test_meets_DrwDrawsTheSprite_collision :
    dotSet.CanAdvance 2 ∧ (∀ k, k < (1 : Nibble).toNat → Readable (dotSet.i.toNat + k)) ∧
    ∃ px py, dotSet.SpriteHits (dotSet.v[(0 : Reg)].toNat) (dotSet.v[(1 : Reg)].toNat) (1 : Nibble).toNat px py ∧
      dotSet.disp[px][py] = true := 
  ⟨⟨by decide, by decide⟩, dot_ready.2, 0, 0, dot_hits, by decide⟩
/-- the display is clear -/
theorem test_meets_DrwDrawsTheSprite_no_collision :
    dot.CanAdvance 2 ∧ (∀ k, k < (1 : Nibble).toNat → Readable (dot.i.toNat + k)) ∧
    ∀ px py, dot.SpriteHits (dot.v[(0 : Reg)].toNat) (dot.v[(1 : Reg)].toNat) (1 : Nibble).toNat px py →
      dot.disp[px][py] = false := 
  ⟨⟨by decide, by decide⟩, dot_ready.2, fun px py _ => Display.pixel_clear px py⟩
/-- no address is read, so I may be anything -/
theorem test_meets_DrwOfHeightZero :
    (iAt 0x1000).CanAdvance 2 := ⟨by decide, by decide⟩
theorem test_meets_DrawingTwiceRestoresTheDisplay :
    (0 : Reg) ≠ vf ∧ (1 : Reg) ≠ vf ∧ dot.CanAdvance 4 ∧
    (∀ k, k < (1 : Nibble).toNat → Readable (dot.i.toNat + k)) ∧ ∃ t, exec (.drw 0 1 1) dot = .next t ∧ t.pc = 0x202 := 
  ⟨by decide, by decide, dot_ready.1, dot_ready.2, _, rfl, by decide⟩
/-- 0xFFA and 0xFFC, with a key that is V[X] and with none -/
theorem test_meets_KeySkipsTestTheLatch :
    (latched 0 (atPc 0xFFA)).pc.toNat % 2 = 0 ∧
    (latched 0 (atPc 0xFFA)).pendingKey.map BitVec.toNat = some (latched 0 (atPc 0xFFA)).v[(0 : Reg)].toNat ∧
    (atPc 0xFFC).pc.toNat % 2 = 0 ∧ (atPc 0xFFC).pendingKey.map BitVec.toNat ≠ some (atPc 0xFFC).v[(0 : Reg)].toNat := by
  decide
/-- waiting at the last pc; a key at the last pc it can be taken; a key at 0xFFE -/
theorem test_meets_KeyWaitStaysOrConsumesTheKey :
    (atPc 0xFFE).CanAdvance 0 ∧ (atPc 0xFFE).pendingKey = none ∧ (latched 15 (atPc 0xFFC)).CanAdvance 2 ∧
    (latched 15 (atPc 0xFFC)).pendingKey = some 15 ∧ (latched 4 (atPc 0xFFE)).pc = 0xFFE ∧
    (latched 4 (atPc 0xFFE)).pendingKey = some 4 :=
  ⟨⟨by decide, by decide⟩, rfl, ⟨by decide, by decide⟩, rfl, rfl, rfl⟩
theorem test_meets_TimerAccess :
    (atPc 0xFFC).CanAdvance 2 := atFFC_can_advance
/-- before and after INIT -/
theorem test_meets_TickCountsDown :
    State.reset.initialised = true ∧ ({ State.reset with initialised := false } : State).initialised = false := ⟨rfl, rfl⟩
theorem test_meets_TheLatchIsKeptUntilConsumed :
    Command.tick ∈ [Command.step .absent, .tick, .clearDirty] ∧ ∃ t, State.command (latched 3 State.reset) .tick = .next t :=
  ⟨by decide, _, rfl⟩
/-- key codes 15 and 16 -/
theorem test_meets_ReportKeyAndClearDirty :
    State.reset.initialised = true ∧ 15 ≤ 15 ∧ 15 < 16 := ⟨rfl, by decide, by decide⟩
/-- the longest ROM, and one byte too many -/
theorem test_meets_InitCreatesTheMachine :
    (List.replicate 3584 (0xFF : Byte)).length ≤ 3584 ∧ 3584 < (List.replicate 3585 (0xFF : Byte)).length := by
  simp only [List.length_replicate]; decide
theorem test_meets_CommandsBeforeInitAreRefused :
    ({ State.reset with initialised := false } : State).initialised = false := rfl
/-- the word 0x12FE, JP 0x2FE, at pc = 0x2FE -/
def selfJump : State := State.withFetchWord (atPc 0x2FE) 16 0x12FE
theorem test_meets_StepRunsTheDecodedInstruction :
    selfJump.initialised = true ∧ selfJump.CanAdvance 0 ∧ selfJump.driver = [] ∧
    decode (selfJump.byteAt selfJump.pc.toNat ++ selfJump.byteAt (selfJump.pc.toNat + 1)) = .ok (.jp 0x2FE) := 
  ⟨rfl, ⟨by decide, by decide⟩, rfl, by decide⟩
theorem test_meets_KeyEventIsAReportBeforeTheStep :
    ∃ m, step { selfJump with driver := [.reportKey (some 15), .step .absent] } = .next m := ⟨_, rfl⟩
/-- the word 0x0000 at 0xFFC and at 0xFFE -/
theorem test_meets_UnknownWordIsReported :
    (atPc 0xFFC).initialised = true ∧ decode (atPc 0xFFC).fetchWord = .error .unknownClass0 ∧ (atPc 0xFFC).CanAdvance 2 ∧
    (atPc 0xFFE).initialised = true ∧ decode (atPc 0xFFE).fetchWord = .error .unknownClass0 ∧ (atPc 0xFFE).pc = 0xFFE ∧
    (atPc 0xFFE).fcause = 0 :=
  ⟨rfl, by decide, atFFC_can_advance, rfl, by decide, rfl, rfl⟩
theorem test_meets_IllegalPcFaultsAtFetch :
    (atPc 0x201).initialised = true ∧ (atPc 0x201).pc.toNat % 2 = 1 ∧
    (atPc 0x1000).pc.toNat > 0xFFE := by decide
theorem test_meets_FinalStateStays :
    selfJump.Final ∧ selfJump.CanAdvance 0 := 
  ⟨⟨rfl, rfl, rfl, by decide⟩, ⟨by decide, by decide⟩⟩
/-- FX0A at the last pc, no key; and a jump -/
theorem test_meets_WaitingKeyIsExact :
    (∃ t, State.command (State.withFetchWord (atPc 0xFFE) 16 0xF30A) (.step .absent) = .next t ∧ t.waitingKey = true) ∧
    ∃ t, selfJump.command (.step (.present (some 15))) = .next t ∧ t.waitingKey = false :=
  ⟨⟨_, rfl, by decide⟩, _, rfl, by decide⟩
/-- a skip not taken, to 0xFFE -/
theorem test_meets_NextPcFollowsTheRules :
    ∃ t, exec (.sneReg 0 0) (atPc 0xFFC) = .next t ∧ t.response = committedEffects false false false ∧ t.pc = 0xFFE :=
  ⟨_, rfl, rfl, rfl⟩
theorem test_meets_NothingRunsOffTheEnd :
    (atPc 0xFFE).pc = 0xFFE ∧ (∃ t, exec (.ldImm 0 1) (atPc 0xFFE) = .next t) ∧
    (Instr.ldImm 0 1).row.mnemonic ∉ ["JP", "CALL", "RET", "JP_V0"] ∧
    ¬((Instr.ldImm 0 1).row.mnemonic = "LD_VX_K" ∧ (atPc 0xFFE).pendingKey = none) := ⟨rfl, ⟨_, rfl⟩, by decide, by decide⟩
theorem test_meets_OnlyTheNamedInstructionsWriteEachField :
    ∃ t, exec (.drw 0 1 1) dot = .next t := ⟨_, rfl⟩
/-- the byte just below each store -/
theorem test_meets_StoresChangeOnlyTheirBytes :
    (∃ t, exec (.ldBVx 0) (iAt 0xFFD) = .next t) ∧ (∃ t, exec (.ldMemVx 15) (iAt 0xFF0) = .next t) ∧
    ¬((iAt 0xFFD).baseAddr ≤ 0xFFC ∧ 0xFFC < (iAt 0xFFD).baseAddr + 3) ∧
    ¬((iAt 0xFF0).baseAddr ≤ 0xFEF ∧ 0xFEF < (iAt 0xFF0).baseAddr + ((15 : Reg).val + 1)) := 
  ⟨⟨_, rfl⟩, ⟨_, rfl⟩, by decide, by decide⟩
theorem test_meets_FaultRecordsAreSticky :
    (∀ rom, ({ State.reset with fcause := 4, fsr := 0x08 } : State).nextCommand ≠ .init rom) ∧
    ∃ t, step { State.reset with fcause := 4, fsr := 0x08 } = .next t ∧ t.fsr = 0x28 := ⟨fun _ h => Command.noConfusion h, _, rfl, by decide⟩
/-- a CALL at 0xFFE has been taken and a stack overflow recorded -/
def lastCall : State :=
  { atPc 0xFFE with sp := 1, stack := Vector.replicate 16 0x1000, fsr := 0x08, fcause := 4 }
theorem test_meets_EveryStepKeepsTheInvariant :
    lastCall.Inv ∧ ∃ t, step lastCall = .next t ∧ t.fsr = 0x29 :=
  ⟨⟨by decide, by decide, rfl, by decide, .inr ⟨.stackOvf, by decide, rfl, by decide⟩,
    by simp only [ReturnAddress]; decide⟩, _, rfl, by decide⟩
def legalCommands : List Command :=
  [.reportKey (some 15), .tick, .step (.present none), .clearDirty, .init none, .step .absent]
theorem test_meets_TheCoreNeverStops :
    State.reset.initialised = true ∧ ∀ c ∈ legalCommands, c.Legal := by
  simp [legalCommands, Command.Legal, LegalKey, State.reset]

end Sys2Proof.Tests
end

/-! PROOFS. The statements about the state (10_state.md). An instruction's meaning makes a working copy of the state, and
what the copy may differ in is said once per write (`WorkingCopy`) and once per instruction (`exec_runs`). The end of a
step hands it on to the next state (`State.finish_induction`); what a command of the driver makes of that is said in
`State.command_cases`. -/

namespace Sys2Proof.Machine

/-! ## What an instruction may write -/

/-- The fields of R10 that the instruction's row does not name are in `u` as they are in `s` (R13, R29). -/
structure Frame (i : Instr) (s u : State) : Prop where
  regs        : ∀ r : Reg, r ∉ destRegs i → u.v[r] = s.v[r]
  mem         : i.row.mnemonic ∉ ["LD_B_VX", "LD_MEM_VX"] → u.mem = s.mem
  index       : i.row.mnemonic ∉ ["LD_I", "ADD_I_VX", "LD_F_VX", "LD_MEM_VX", "LD_VX_MEM"] → u.i = s.i
  sp          : i.row.mnemonic ∉ ["CALL", "RET"] → u.sp = s.sp
  stack       : i.row.mnemonic ≠ "CALL" → u.stack = s.stack
  dt          : i.row.mnemonic ≠ "LD_DT_VX" → u.dt = s.dt
  st          : i.row.mnemonic ≠ "LD_ST_VX" → u.st = s.st
  display     : i.row.mnemonic ∉ ["CLS", "DRW"] → u.disp = s.disp ∧ u.drawDirty = s.drawDirty
  key         : i.row.mnemonic ≠ "LD_VX_K" → u.pendingKey = s.pendingKey
  draws       : i.row.mnemonic ≠ "RND" → u.draws = s.draws
  initialised : u.initialised = s.initialised
  cfg         : u.cfg = s.cfg
  driver      : u.driver = s.driver

theorem Frame.refl (i : Instr) (s : State) : Frame i s s where
  regs _ _    := rfl
  mem _       := rfl
  index _     := rfl
  sp _        := rfl
  stack _     := rfl
  dt _        := rfl
  st _        := rfl
  display _   := ⟨rfl, rfl⟩
  key _       := rfl
  draws _     := rfl
  initialised := rfl
  cfg         := rfl
  driver      := rfl

theorem Frame.byteAt {i : Instr} {s u : State} (h : Frame i s u) (hi : i.row.mnemonic ∉ ["LD_B_VX", "LD_MEM_VX"])
    (a : Nat) : u.byteAt a = s.byteAt a := by
  rw [State.byteAt, State.byteAt, h.mem hi, h.cfg]

/-! ## What becomes of the fault records -/

/-- FSR is sticky: a mask it covers stays covered when other bits are set. -/
theorem or_and_of_and_eq {a m : Byte} (b : Byte) (h : a &&& m = m) : (a ||| b) &&& m = m := by
  rw [BitVec.and_or_distrib_right, h]
  ext k
  simp +contextual

/-- The fault records (R26, R27) of `u` are those of `s`. -/
def SameRecords (s u : State) : Prop :=
  u.fsr = s.fsr ∧ u.fcause = s.fcause ∧ u.fpc = s.fpc ∧ u.fop = s.fop ∧ u.faddr = s.faddr

/-- No bit of FSR is cleared, and a first fault stays recorded (R26, R132). -/
def RecordsKept (s t : State) : Prop :=
  t.fsr &&& s.fsr = s.fsr ∧
  (s.fcause ≠ 0 → t.fcause = s.fcause ∧ t.fpc = s.fpc ∧ t.fop = s.fop ∧ t.faddr = s.faddr)

theorem SameRecords.kept {s u : State} (h : SameRecords s u) : RecordsKept s u :=
  ⟨by rw [h.1, BitVec.and_self], fun _ => h.2⟩

theorem RecordsKept.refl (s : State) : RecordsKept s s := ⟨BitVec.and_self, fun _ => ⟨rfl, rfl, rfl, rfl⟩⟩

theorem RecordsKept.trans {s t u : State} (hst : RecordsKept s t) (htu : RecordsKept t u) : RecordsKept s u := by
  obtain ⟨hfsr, hfirst⟩ := hst
  obtain ⟨hfsr', hfirst'⟩ := htu
  refine ⟨?_, fun h => ?_⟩
  · calc u.fsr &&& s.fsr = (u.fsr &&& t.fsr) &&& s.fsr := by rw [BitVec.and_assoc, hfsr]
      _ = s.fsr := by rw [hfsr', hfsr]
  · obtain ⟨hc, hp, ho, ha⟩ := hfirst h
    obtain ⟨hc', hp', ho', ha'⟩ := hfirst' (hc ▸ h)
    exact ⟨hc'.trans hc, hp'.trans hp, ho'.trans ho, ha'.trans ha⟩

theorem State.record_kept (s : State) (c : Cause) (op : Word) (n : Nat) : RecordsKept s (s.record c op n) :=
  ⟨or_and_of_and_eq c.mask BitVec.and_self, fun h => by
    replace h : ¬s.fcause = 0#8 := h
    simp [h]⟩

/-- Taking a fault writes the records that recording it does. -/
theorem State.takeFault_kept (s : State) (l : List Cause) (c : Cause) (op : Word) (n : Nat) :
    RecordsKept s (s.takeFault l c op n) := s.record_kept c op n

/-! ## The invariant under the recording of a fault -/

theorem Cause.code_ne_zero (c : Cause) : c.code ≠ 0 := by cases c <;> decide

theorem Cause.mask_and_top (c : Cause) : c.mask &&& 0xC0 = 0 := by cases c <;> decide

/-- Recording leaves FSR and FCAUSE in agreement: the first cause is the one recorded or the one already there. -/
theorem State.FaultRecordsAgree.record {s : State} (h : s.FaultRecordsAgree) {c : Cause} (hc : c ≠ .loadError)
    (op : Word) (n : Nat) : (s.record c op n).FaultRecordsAgree := by
  right
  rcases h with ⟨-, hnone⟩ | ⟨first, hne, hcode, hbit⟩
  · have hset : (s.fsr ||| c.mask) &&& c.mask = c.mask := by
      rw [BitVec.or_comm]
      exact or_and_of_and_eq s.fsr BitVec.and_self
    exact ⟨c, hc, by simp [hnone], hset⟩
  · have hset : s.fcause ≠ 0 := hcode ▸ first.code_ne_zero
    obtain ⟨hfirst, -⟩ := (s.record_kept c op n).2 hset
    exact ⟨first, hne, hfirst.trans hcode, or_and_of_and_eq c.mask hbit⟩

theorem State.Inv.record {s : State} (h : s.Inv) {c : Cause} (hc : c ≠ .loadError) (op : Word) (n : Nat) :
    (s.record c op n).Inv :=
  { h with
    fsrTop := by rw [State.record_fsr, BitVec.and_or_distrib_right, h.fsrTop, c.mask_and_top]; rfl
    faults := h.faults.record hc op n }

theorem State.Inv.takeFault {s : State} (h : s.Inv) (l : List Cause) {c : Cause} (hc : c ≠ .loadError) (op : Word)
    (n : Nat) : (s.takeFault l c op n).Inv := { h.record hc op n with }

/-- A commit at a checked pc keeps what the working copy keeps. -/
theorem State.Inv.commit {d : Done} (h : d.state.Inv) (l : List Cause) (hpc : pcLegal d.npc = true) :
    (State.commit l d).Inv := by
  obtain ⟨heven, hrange⟩ := (pcLegal_iff d.npc).1 hpc
  have hval : (BitVec.ofNat 16 d.npc).toNat = d.npc := by rw [BitVec.toNat_ofNat]; omega
  exact { h with
    pcEven := hval.symm ▸ heven
    pcInRange := hval.symm ▸ hrange }

/-! ## The end of a step -/

/-- The working copy, if the instruction is done, has the property; a fault it raises is one of R131 with an FSR bit. -/
def Attempt.Meets (P : State → Prop) : Attempt → Prop
  | .done d    => P d.state
  | .raise c _ => c ≠ .loadError

theorem Attempt.Meets.imp {P Q : State → Prop} (hPQ : ∀ u, P u → Q u) : ∀ {a : Attempt}, a.Meets P → a.Meets Q
  | .done _,    h => hPQ _ h
  | .raise _ _, h => h

theorem State.advance_meets {P : State → Prop} {s t : State} (h : P t) : (s.advance t).Meets P := h

theorem guarded_meets {P : State → Prop} {failing : Option (Cause × Nat)} {a : Attempt}
    (hfail : ∀ c n, failing = some (c, n) → c ≠ .loadError) (ha : failing = none → a.Meets P) :
    (guarded failing a).Meets P := by
  cases failing with
  | none        => exact ha rfl
  | some failed => exact hfail failed.1 failed.2 rfl

/-- A property of the next state follows from the two ends of a step: COMMIT carries it over from the working copy, and
a fault gives it to the state before the step. -/
theorem State.finish_induction {P : State → Prop} {s : State} {l : List Cause} {op : Word} {a : Attempt} (ha : a.Meets P)
    (hcommit : ∀ d : Done, P d.state → pcLegal d.npc = true → P (State.commit l d))
    (hfault : ∀ c n, c ≠ .loadError → P (s.takeFault l c op n)) : P (s.finish l op a) := by
  rcases s.finish_cases l op a with ⟨d, rfl, hpc, e⟩ | ⟨d, rfl, -, e⟩ | ⟨c, n, rfl, e⟩ <;> rw [e]
  · exact hcommit d ha hpc
  · exact hfault _ _ nofun
  · exact hfault c n ha

theorem State.Inv.finish {s : State} (h : s.Inv) {l : List Cause} {op : Word} {a : Attempt} (ha : a.Meets State.Inv) :
    (s.finish l op a).Inv :=
  State.finish_induction ha (fun _ hd hpc => hd.commit l hpc) fun _ n hc => h.takeFault l hc op n

theorem RecordsKept.finish {s t : State} (h : RecordsKept s t) {l : List Cause} {op : Word} {a : Attempt}
    (ha : a.Meets (RecordsKept s)) : RecordsKept s (t.finish l op a) :=
  State.finish_induction ha (fun _ hd _ => hd) fun c n _ => h.trans (t.takeFault_kept l c op n)

theorem Frame.finish {i : Instr} {s : State} {l : List Cause} {op : Word} {a : Attempt} (ha : a.Meets (Frame i s)) :
    Frame i s (s.finish l op a) :=
  State.finish_induction ha (fun _ hd _ => { hd with }) fun _ _ _ => { Frame.refl i s with }

/-! ## The working copy -/

/-- What holds of the working copy `u` that EXECUTE (40_step_cycle.md R66) makes of `s` for the instruction `i`. -/
structure WorkingCopy (i : Instr) (s u : State) : Prop extends Frame i s u where
  records : SameRecords s u
  inv     : s.Inv → u.Inv

namespace WorkingCopy

variable {i : Instr} {s u : State}

theorem refl (i : Instr) (s : State) : WorkingCopy i s s where
  toFrame := Frame.refl i s
  records := ⟨rfl, rfl, rfl, rfl, rfl⟩
  inv     := id

/-! One rule for each write: an instruction whose row allows it goes on with a working copy. -/

theorem setRegs (h : WorkingCopy i s u) {v : Vector Byte 16} (hv : ∀ r : Reg, r ∉ destRegs i → v[r] = u.v[r]) :
    WorkingCopy i s { u with v := v } :=
  { h with
    regs := fun r hr => (hv r hr).trans (h.regs r hr)
    inv  := fun hs => { h.inv hs with } }

theorem setV (h : WorkingCopy i s u) {x : Reg} (b : Byte) (hx : x ∈ destRegs i) : WorkingCopy i s (u.setV x b) :=
  h.setRegs fun r hr => State.getV_setV_other u x r b fun e => hr (e ▸ hx)

theorem setFlagged (h : WorkingCopy i s u) {x : Reg} (b flag : Byte) (hx : x ∈ destRegs i) (hvf : vf ∈ destRegs i) :
    WorkingCopy i s (u.setFlagged x b flag) :=
  (h.setV b hx).setV flag hvf

theorem setIndex (h : WorkingCopy i s u) (w : Word)
    (hi : i.row.mnemonic ∈ ["LD_I", "ADD_I_VX", "LD_F_VX", "LD_MEM_VX", "LD_VX_MEM"]) :
    WorkingCopy i s { u with i := w } :=
  { h with
    index := fun hn => absurd hi hn
    inv   := fun hs => { h.inv hs with } }

/-- The bytes lie below 0x1000, so memory stays canonical (20_memory.md R33). -/
theorem putBytes (h : WorkingCopy i s u) {a : Nat} {xs : List Byte} (hi : i.row.mnemonic ∈ ["LD_B_VX", "LD_MEM_VX"])
    (ha : a + xs.length ≤ 0x1000) : WorkingCopy i s (u.putBytes a xs) :=
  { h with
    mem := fun hn => absurd hi hn
    inv := fun hs => { h.inv hs with memWf := Memory.wf_writeAll xs u.mem a ha (h.inv hs).memWf } }

theorem setDisplay (h : WorkingCopy i s u) (d : Display) (dirty : Bool) (hi : i.row.mnemonic ∈ ["CLS", "DRW"]) :
    WorkingCopy i s { u with disp := d, drawDirty := dirty } :=
  { h with
    display := fun hn => absurd hi hn
    inv     := fun hs => { h.inv hs with } }

theorem setDt (h : WorkingCopy i s u) (b : Byte) (hi : i.row.mnemonic = "LD_DT_VX") : WorkingCopy i s { u with dt := b } :=
  { h with
    dt  := fun hn => absurd hi hn
    inv := fun hs => { h.inv hs with } }

theorem setSt (h : WorkingCopy i s u) (b : Byte) (hi : i.row.mnemonic = "LD_ST_VX") : WorkingCopy i s { u with st := b } :=
  { h with
    st  := fun hn => absurd hi hn
    inv := fun hs => { h.inv hs with } }

theorem setKey (h : WorkingCopy i s u) (k : Option Nibble) (hi : i.row.mnemonic = "LD_VX_K") :
    WorkingCopy i s { u with pendingKey := k } :=
  { h with
    key := fun hn => absurd hi hn
    inv := fun hs => { h.inv hs with } }

theorem setDraws (h : WorkingCopy i s u) (n : Nat) (hi : i.row.mnemonic = "RND") : WorkingCopy i s { u with draws := n } :=
  { h with
    draws := fun hn => absurd hi hn
    inv   := fun hs => { h.inv hs with } }

/-- CALL's push (41_control_flow.md R78): a legal pc + 2 is a return address. -/
theorem push (h : s.sp.val < 16) (nnn : Imm12) :
    WorkingCopy (.call nnn) s
      { s with stack := s.stack.set s.sp.val (s.pc + 2), sp := ⟨s.sp.val + 1, Nat.succ_lt_succ h⟩ } :=
  { refl (.call nnn) s with
    sp    := fun hn => absurd (by simp [Instr.row]) hn
    stack := fun hn => absurd rfl hn
    inv   := fun hs => { hs with
      stackOk := fun k hk => by
        replace hk : k.val < s.sp.val + 1 := hk
        change ReturnAddress (s.stack.set s.sp.val (s.pc + 2))[k.val]
        by_cases hnew : k.val = s.sp.val
        · have heven := hs.pcEven
          have hrange := hs.pcInRange
          have hadd : (s.pc + 2).toNat = s.pc.toNat + 2 := by bv_omega
          simp only [hnew, Vector.getElem_set_self, ReturnAddress, hadd]
          omega
        · rw [Vector.getElem_set_ne _ _ (Ne.symm hnew)]
          exact hs.stackOk k (by omega) } }

/-- RET's pop (R79) leaves a shorter live part of the stack. -/
theorem pop {k : Nat} (hk : k < 17) (hsp : k < s.sp.val) : WorkingCopy .ret s { s with sp := ⟨k, hk⟩ } :=
  { refl .ret s with
    sp  := fun hn => absurd (by simp [Instr.row]) hn
    inv := fun hs => { hs with stackOk := fun j hj => hs.stackOk j (Nat.lt_trans hj hsp) } }

end WorkingCopy

/-! ## The address checks -/

theorem firstFailing_cause {check : Nat → Option Cause} (hcheck : ∀ a, check a ≠ some .loadError) {a n : Nat} {c : Cause}
    {addr : Nat} (h : firstFailing check a n = some (c, addr)) : c ≠ .loadError := by
  rcases firstFailing_cases check a n with ⟨hnone, -⟩ | ⟨k, c', -, hsome, hc, -⟩
  · exact nomatch hnone.symm.trans h
  · obtain ⟨rfl, -⟩ := Prod.mk.inj (Option.some.inj (hsome.symm.trans h))
    rintro rfl
    exact hcheck _ hc

theorem readCheck_ne_loadError (a : Nat) : readCheck a ≠ some .loadError := by
  unfold readCheck
  split <;> nofun

theorem writeCheck_ne_loadError (p : FontWritePolicy) (a : Nat) : writeCheck p a ≠ some .loadError := by
  unfold writeCheck
  split
  · nofun
  · split <;> nofun

theorem le_of_writeCheck_eq_none {p : FontWritePolicy} {a : Nat} (h : writeCheck p a = none) : a ≤ 0xFFF := by
  by_contra hgt
  simp [writeCheck, Nat.lt_of_not_le hgt] at h

/-- A store that R41 accepts at every address ends below 0x1000. -/
theorem State.writeFailing_eq_none_bound {s : State} {n : Nat} (h : s.writeFailing (n + 1) = none) :
    s.baseAddr + (n + 1) ≤ 0x1000 := by
  have hlast := le_of_writeCheck_eq_none ((firstFailing_eq_none _ _ _).1 h n n.lt_succ_self)
  omega

theorem State.regsUpTo_length (s : State) (x : Reg) : (s.regsUpTo x).length = x.val + 1 := by
  simp [State.regsUpTo]

/-! ## Each instruction's working copy -/

/-- The outcome is the end of a step of `i` from `s` whose working copy is one of `i`'s. -/
def Runs (i : Instr) (s : State) (o : Host.Outcome State Fault Refusal) : Prop :=
  ∃ a : Attempt, o = .next (s.finish [] (encode i) a) ∧ a.Meets (WorkingCopy i s)

section
variable (s : State)

theorem State.run_runs {i : Instr} {a : Attempt} (h : a.Meets (WorkingCopy i s)) : Runs i s (s.run i a) := ⟨a, rfl, h⟩

theorem State.skipIf_runs (i : Instr) (taken : Bool) : Runs i s (s.run i (s.skipIf taken)) :=
  s.run_runs (WorkingCopy.refl i s)

theorem State.setV_runs {i : Instr} {x : Reg} (b : Byte) (hx : x ∈ destRegs i) :
    Runs i s (s.run i (s.advance (s.setV x b))) :=
  s.run_runs ((WorkingCopy.refl i s).setV b hx)

theorem State.setFlagged_runs {i : Instr} {x : Reg} (b flag : Byte) (hx : x ∈ destRegs i) (hvf : vf ∈ destRegs i) :
    Runs i s (s.run i (s.advance (s.setFlagged x b flag))) :=
  s.run_runs ((WorkingCopy.refl i s).setFlagged b flag hx hvf)

theorem execCall_runs (nnn : Imm12) : Runs (.call nnn) s (execCall nnn s) := by
  refine s.run_runs ?_
  split
  case isTrue h  => exact WorkingCopy.push h nnn
  case isFalse h => nofun

theorem execRet_runs : Runs .ret s (execRet s) := by
  refine s.run_runs ?_
  split
  next => nofun
  next k h hsp => exact WorkingCopy.pop _ (by simp [hsp])

theorem execDrw_runs (x y : Reg) (n : Nibble) : Runs (.drw x y n) s (execDrw x y n s) :=
  s.run_runs <| guarded_meets (fun _ _ => firstFailing_cause readCheck_ne_loadError) fun _ =>
    ((WorkingCopy.refl _ s).setV _ (by simp [destRegs])).setDisplay _ _ (by simp [Instr.row])

theorem execLdVxK_runs (x : Reg) : Runs (.ldVxK x) s (execLdVxK x s) := by
  refine s.run_runs ?_
  split
  next => exact WorkingCopy.refl _ s
  next k _ => exact ((WorkingCopy.refl _ s).setV _ (by simp [destRegs])).setKey none rfl

theorem execLdBVx_runs (x : Reg) : Runs (.ldBVx x) s (execLdBVx x s) :=
  s.run_runs <| guarded_meets (fun _ _ => firstFailing_cause (writeCheck_ne_loadError _)) fun h =>
    (WorkingCopy.refl _ s).putBytes (by simp [Instr.row]) (State.writeFailing_eq_none_bound h)

theorem execLdMemVx_runs (x : Reg) : Runs (.ldMemVx x) s (execLdMemVx x s) :=
  s.run_runs <| guarded_meets (fun _ _ => firstFailing_cause (writeCheck_ne_loadError _)) fun h =>
    ((WorkingCopy.refl _ s).putBytes (by simp [Instr.row])
      (by rw [s.regsUpTo_length]; exact State.writeFailing_eq_none_bound h)).setIndex _ (by simp [Instr.row])

/-- A register above X is not loaded (R13, R108). -/
theorem State.loadedRegs_of_notMem {x r : Reg} (hr : r ∉ destRegs (.ldVxMem x)) : (s.loadedRegs x)[r] = s.v[r] := by
  have habove : ¬r ≤ x := fun hle => hr (by simp [destRegs, hle])
  simp [State.loadedRegs, habove]

theorem execLdVxMem_runs (x : Reg) : Runs (.ldVxMem x) s (execLdVxMem x s) :=
  s.run_runs <| guarded_meets (fun _ _ => firstFailing_cause readCheck_ne_loadError) fun _ =>
    ((WorkingCopy.refl _ s).setRegs fun _ => s.loadedRegs_of_notMem).setIndex _ (by simp [Instr.row])

/-- Every instruction's working copy differs from the state in what its row names, and keeps the invariant. -/
theorem exec_runs (i : Instr) : Runs i s (exec i s) := by
  have start := WorkingCopy.refl i s
  cases i with
  | jp | jpV0 => exact s.run_runs start
  | seImm | sneImm | seReg | sneReg | skp | sknp => exact s.skipIf_runs _ _
  | ldImm | addImm | ldReg | orReg | andReg | xorReg | ldVxDt => exact s.setV_runs _ (by simp [destRegs])
  | addReg | subReg | shr | subnReg | shl =>
    exact s.setFlagged_runs _ _ (by simp [destRegs]) (by simp [destRegs])
  | ldI | addIVx | ldFVx => exact s.run_runs (start.setIndex _ (by simp [Instr.row]))
  | cls => exact s.run_runs (start.setDisplay _ _ (by simp [Instr.row]))
  | rnd => exact s.run_runs ((start.setV _ (by simp [destRegs])).setDraws _ rfl)
  | ldDtVx => exact s.run_runs (start.setDt _ rfl)
  | ldStVx => exact s.run_runs (start.setSt _ rfl)
  | call nnn => exact execCall_runs s nnn
  | ret => exact execRet_runs s
  | drw x y n => exact execDrw_runs s x y n
  | ldVxK x => exact execLdVxK_runs s x
  | ldBVx x => exact execLdBVx_runs s x
  | ldMemVx x => exact execLdMemVx_runs s x
  | ldVxMem x => exact execLdVxMem_runs s x

end

section
variable {s t : State}

/-- What an instruction can do: end a step with its working copy (R66). -/
theorem exec_cases {i : Instr} (h : exec i s = .next t) :
    ∃ a : Attempt, t = s.finish [] (encode i) a ∧ a.Meets (WorkingCopy i s) := by
  obtain ⟨a, e, ha⟩ := exec_runs s i
  exact ⟨a, Host.Outcome.next.inj (h.symm.trans e), ha⟩

theorem exec_frame {i : Instr} (h : exec i s = .next t) : Frame i s t := by
  obtain ⟨a, rfl, ha⟩ := exec_cases h
  exact Frame.finish (ha.imp fun _ hu => hu.toFrame)

theorem exec_kept {i : Instr} (h : exec i s = .next t) : RecordsKept s t := by
  obtain ⟨a, rfl, ha⟩ := exec_cases h
  exact (RecordsKept.refl s).finish (ha.imp fun _ hu => hu.records.kept)

theorem State.Inv.exec {i : Instr} (hs : s.Inv) (h : exec i s = .next t) : t.Inv := by
  obtain ⟨a, rfl, ha⟩ := exec_cases h
  exact hs.finish (ha.imp fun _ hu => hu.inv hs)

/-! ## FETCH and DECODE -/

/-- What a STEP does after its latch: the decoded instruction, the report of an unknown word, or the fault of a fetch
from an illegal pc (40_step_cycle.md R66, R68, R73). -/
theorem State.fetchExecute_cases (h : s.fetchExecute = .next t) :
    (∃ i, exec i s = .next t) ∨ t = s.unknownOp s.fetchWord ∨ t = s.takeFault [] .addrPc 0 s.pc.toNat := by
  unfold State.fetchExecute at h
  split at h
  · split at h
    next i _ => exact .inl ⟨i, h⟩
    next => exact .inr (.inl (Host.Outcome.next.inj h).symm)
  · exact .inr (.inr (Host.Outcome.next.inj h).symm)

theorem State.fetchExecute_kept (h : s.fetchExecute = .next t) : RecordsKept s t := by
  rcases State.fetchExecute_cases h with ⟨i, hi⟩ | rfl | rfl
  · exact exec_kept hi
  · have hrec := s.record_kept .unknownOp s.fetchWord 0
    exact hrec.finish (State.advance_meets hrec)
  · exact s.takeFault_kept _ _ _ _

theorem State.Inv.fetchExecute (hs : s.Inv) (h : s.fetchExecute = .next t) : t.Inv := by
  rcases State.fetchExecute_cases h with ⟨i, hi⟩ | rfl | rfl
  · exact hs.exec hi
  · have hrec : (s.record .unknownOp s.fetchWord 0).Inv := hs.record (c := .unknownOp) nofun _ _
    exact hrec.finish (State.advance_meets hrec)
  · exact hs.takeFault _ (c := .addrPc) nofun _ _

/-! ## Commands -/

theorem State.whenInitialised_of_not (h : s.initialised = false) (o : Host.Outcome State Fault Refusal) :
    s.whenInitialised o = .refused .notInitialised := by
  simp [State.whenInitialised, h]

theorem State.of_whenInitialised {o : Host.Outcome State Fault Refusal} (h : s.whenInitialised o = .next t) :
    o = .next t := by
  unfold State.whenInitialised at h
  split at h
  · exact h
  · exact nomatch h

theorem State.reportKey_cases {k : Option Nat} (h : s.reportKey k = .next t) :
    ∃ key, t = { s with pendingKey := key } := by
  unfold State.reportKey at h
  split at h
  next key _ => exact ⟨key, (Host.Outcome.next.inj h).symm⟩
  next => exact nomatch h

/-- STEP is a latch, which keeps or writes the key, and then the fetch and all that follows (R66, R67). -/
theorem State.stepCommand_cases {e : KeyEvent} (h : s.stepCommand e = .next t) :
    ∃ key, State.fetchExecute { s with pendingKey := key } = .next t := by
  cases e with
  | absent => exact ⟨s.pendingKey, h⟩
  | present k =>
    simp only [State.stepCommand] at h
    split at h
    next m hm =>
      obtain ⟨key, rfl⟩ := State.reportKey_cases hm
      exact ⟨key, h⟩
    next => exact nomatch h
    next => exact nomatch h

/-- What a command can do (R62). -/
theorem State.command_cases {c : Command} (h : s.command c = .next t) :
    (∃ rom, c = .init rom ∧ t = s.init rom) ∨
    (∃ key, State.fetchExecute { s with pendingKey := key } = .next t) ∨
    (∃ key, t = { s with pendingKey := key }) ∨ t = s.tick ∨ t = s.clearDirty := by
  cases c with
  | init rom    => exact .inl ⟨rom, rfl, (Host.Outcome.next.inj h).symm⟩
  | step e      => exact .inr (.inl (State.stepCommand_cases (State.of_whenInitialised h)))
  | reportKey k => exact .inr (.inr (.inl (State.reportKey_cases (State.of_whenInitialised h))))
  | tick        => exact .inr (.inr (.inr (.inl (Host.Outcome.next.inj (State.of_whenInitialised h)).symm)))
  | clearDirty  => exact .inr (.inr (.inr (.inr (Host.Outcome.next.inj (State.of_whenInitialised h)).symm)))

theorem State.command_kept {c : Command} (hc : ∀ rom, c ≠ .init rom) (h : s.command c = .next t) : RecordsKept s t := by
  rcases State.command_cases h with ⟨rom, rfl, -⟩ | ⟨key, hfetch⟩ | ⟨key, rfl⟩ | rfl | rfl
  · exact absurd rfl (hc rom)
  · exact State.fetchExecute_kept (s := { s with pendingKey := key }) hfetch
  · exact RecordsKept.refl s
  · exact RecordsKept.refl s
  · exact RecordsKept.refl s

/-- A ROM of at most 3584 bytes fits below 0x1000: INIT makes a state that meets the invariant, from any state (R145). -/
theorem State.initWith_inv (s : State) {rom : List Byte} (hlen : rom.length ≤ 3584) : (s.initWith rom).Inv where
  pcEven    := (by decide : (0x200 : Word).toNat % 2 = 0)
  pcInRange := (by decide : (0x200 : Word).toNat ≤ 0xFFE)
  memWf     := Memory.wf_writeAll rom [] 0x200 (by omega) rfl
  fsrTop    := BitVec.zero_and
  faults    := .inl ⟨rfl, rfl⟩
  stackOk _ hk := absurd hk (Nat.not_lt_zero _)

theorem State.Inv.init (hs : s.Inv) (rom : Option (List Byte)) : (s.init rom).Inv := by
  unfold State.init
  split
  · split
    · exact { hs with }
    · exact s.initWith_inv (by omega)
  · exact { hs with }

theorem State.Inv.command {c : Command} (hs : s.Inv) (h : s.command c = .next t) : t.Inv := by
  rcases State.command_cases h with ⟨rom, -, rfl⟩ | ⟨key, hfetch⟩ | ⟨key, rfl⟩ | rfl | rfl
  · exact hs.init rom
  · exact State.Inv.fetchExecute (s := { s with pendingKey := key }) { hs with } hfetch
  · exact { hs with }
  · exact { hs with }
  · exact { hs with }

end

/-! ## The statements -/

/-- Settles O49: each instruction's working copy is within its frame, and both ends of a step stay within it. -/
theorem onlyTheNamedInstructionsWriteEachField : Obligations.OnlyTheNamedInstructionsWriteEachField := by
  intro i s t h
  have f := exec_frame h
  exact ⟨f.regs, f.byteAt, f.index, f.sp, f.stack, f.dt, f.st, f.display, f.key, f.draws, f.initialised, f.cfg, f.driver⟩

/-- Settles O52: taking a command from the driver's list touches nothing of the invariant, and every command keeps it. -/
theorem everyStepKeepsTheInvariant : Obligations.EveryStepKeepsTheInvariant := fun s _ hs h =>
  State.Inv.command (s := { s with driver := s.driver.tail }) { hs with } h

/-- Settles O51: no command but INIT clears a record, whatever it ends in. -/
theorem faultRecordsAreSticky : Obligations.FaultRecordsAreSticky := fun s _ hc h =>
  State.command_kept (s := { s with driver := s.driver.tail }) hc h

/-- Settles O37: every command but INIT is guarded by `initialised`. -/
theorem commandsBeforeInitAreRefused : Obligations.CommandsBeforeInitAreRefused := by
  intro s e k h
  have refused := State.whenInitialised_of_not h
  exact ⟨refused _, refused _, refused _, refused _⟩

/-- Settles O53: the reset state is what INIT with the empty ROM makes (R147). -/
theorem resetMeetsTheInvariant : Obligations.ResetMeetsTheInvariant :=
  State.initWith_inv State.reset (rom := []) (Nat.zero_le _)

/-- Settles O38: the registers, the stack and the display are replicated zeros; the rest is read off the state. -/
theorem resetValues : Obligations.ResetValues := by
  unfold Obligations.ResetValues
  refine ⟨rfl, rfl, rfl, fun x => ?_, fun k => ?_, rfl, rfl, fun px py => ?_, rfl, rfl, rfl, rfl, rfl, rfl, rfl, rfl, rfl,
    by decide, by decide, by decide, by decide⟩
  · simp [State.reset]
  · simp [State.reset]
  · simp [State.reset]

end Sys2Proof.Machine

/-! PROOFS. The statements about memory (20_memory.md). The address checks of R40 and R41 are tied to `Readable` and
`Writable`, and the first failing address to what R42 reports. FX33 and FX55 are one operation, `State.runStore`, and what
it can do is said once, in `State.runStore_cases`. -/

namespace Sys2Proof.Machine

/-! ## The address checks of R40 and R41 -/

theorem readCheck_eq_none_iff (a : Nat) : readCheck a = none ↔ Readable a := by
  simp [readCheck, Readable]

theorem readCheck_of_not_readable {a : Nat} (h : ¬Readable a) : readCheck a = some .addrMem :=
  if_pos (Nat.lt_of_not_le h)

theorem writeCheck_eq_none_iff (p : FontWritePolicy) (a : Nat) : writeCheck p a = none ↔ Writable p a := by
  unfold writeCheck Writable
  split
  next habove => simp only [reduceCtorEq, false_iff]; omega
  next hin =>
    split
    next hfont => simp only [hfont.2, reduceCtorEq, false_or, false_iff]; omega
    next hopen => cases p <;> simp at hopen ⊢ <;> omega

theorem writeCheck_of_not_writable {p : FontWritePolicy} {a : Nat} (h : ¬Writable p a) :
    writeCheck p a = some (writeCause a) := by
  rw [← writeCheck_eq_none_iff] at h
  by_cases habove : a > 0xFFF
  · simp [writeCheck, writeCause, habove]
  · by_cases hfont : a ≤ 0x04F ∧ p = .fault
    · simp [writeCheck, writeCause, habove, hfont]
    · exact absurd (by rw [writeCheck, if_neg habove, if_neg hfont]) h

/-! ## The first failing address (R42) -/

theorem firstFailing_eq_some {check : Nat → Option Cause} {a n k : Nat} {c : Cause} (hk : k < n)
    (hbefore : ∀ j, j < k → check (a + j) = none) (hc : check (a + k) = some c) :
    firstFailing check a n = some (c, a + k) := by
  rcases firstFailing_cases check a n with ⟨-, hall⟩ | ⟨first, c', -, hfirst, hc', hpass⟩
  · exact nomatch (hall k hk).symm.trans hc
  · rcases Nat.lt_trichotomy first k with hlt | rfl | hgt
    · exact nomatch (hbefore first hlt).symm.trans hc'
    · rw [hfirst, Option.some.inj (hc'.symm.trans hc)]
    · exact nomatch (hpass k hgt).symm.trans hc

section
variable {s t : State} {n k : Nat}

theorem State.writeFailing_eq_none_iff :
    s.writeFailing n = none ↔ ∀ k, k < n → Writable s.cfg.fontWritePolicy (s.i.toNat + k) := by
  simp [State.writeFailing, State.baseAddr, firstFailing_eq_none, writeCheck_eq_none_iff]

theorem State.writeFailing_eq_some (hk : k < n) (hbefore : ∀ j, j < k → Writable s.cfg.fontWritePolicy (s.i.toNat + j))
    (hbad : ¬Writable s.cfg.fontWritePolicy (s.i.toNat + k)) :
    s.writeFailing n = some (writeCause (s.i.toNat + k), s.i.toNat + k) :=
  firstFailing_eq_some hk (fun j hj => (writeCheck_eq_none_iff _ _).2 (hbefore j hj)) (writeCheck_of_not_writable hbad)

theorem State.readFailing_eq_some (hk : k < n) (hbefore : ∀ j, j < k → Readable (s.i.toNat + j))
    (hbad : ¬Readable (s.i.toNat + k)) : s.readFailing n = some (.addrMem, s.i.toNat + k) :=
  firstFailing_eq_some hk (fun j hj => (readCheck_eq_none_iff _).2 (hbefore j hj)) (readCheck_of_not_readable hbad)

/-- A failing address suppresses the step, whatever the instruction would have done (R42, R72). -/
theorem State.run_guarded_suppressed {failing : Option (Cause × Nat)} {c : Cause} (i : Instr) (a : Attempt)
    (h : failing = some (c, n)) : ∃ t, s.run i (guarded failing a) = .next t ∧ Suppressed s t c (encode i) n := by
  subst h
  exact ⟨_, s.run_raise i c n, s.takeFault_suppressed c (encode i) n⟩

/-! ## What a store can do (R42, R106, R107) -/

/-- The default advance commits the working copy at pc + 2, or pc + 2 is no legal pc and the step is suppressed. -/
theorem State.run_advance_cases (s u : State) (i : Instr) :
    (s.CanAdvance 2 ∧ s.run i (s.advance u) = .next (u.committedAt (s.pc + 2))) ∨
    s.run i (s.advance u) = .next (s.takeFault [] .addrPc (encode i) (s.pc.toNat + 2)) := by
  cases hpc : pcLegal (s.pc.toNat + 2) with
  | true =>
    obtain ⟨heven, hrange⟩ := (pcLegal_iff _).1 hpc
    have hadvance : s.CanAdvance 2 := ⟨by omega, hrange⟩
    exact .inl ⟨hadvance, s.run_advance u i hadvance⟩
  | false => exact .inr (s.run_bad i _ hpc)

/-- FX33 and FX55 in one: after the checks of R41 the bytes are stored from I on, I becomes `w`, and the pc advances. -/
def State.runStore (s : State) (i : Instr) (xs : List Byte) (w : Word) : Host.Outcome State Fault Refusal :=
  s.run i (guarded (s.writeFailing xs.length) (s.advance { s.putBytes s.baseAddr xs with i := w }))

theorem exec_ldBVx_eq_runStore (x : Reg) (s : State) :
    exec (.ldBVx x) s = s.runStore (.ldBVx x) (bcdDigits (s.getV x)) s.i := rfl

theorem exec_ldMemVx_eq_runStore (x : Reg) (s : State) :
    exec (.ldMemVx x) s = s.runStore (.ldMemVx x) (s.regsUpTo x) (s.blockI x) := by
  rw [State.runStore, s.regsUpTo_length]
  rfl

variable {i : Instr} {xs : List Byte} {w : Word} {a : Nat}

/-- A store commits with every byte written, each where R41 allows it, or a fault suppresses it. -/
theorem State.runStore_cases (h : s.runStore i xs w = .next t) :
    (s.CanAdvance 2 ∧ (∀ k, k < xs.length → Writable s.cfg.fontWritePolicy (s.i.toNat + k)) ∧
      t = { s.putBytes s.baseAddr xs with i := w }.committedAt (s.pc + 2)) ∨
    ∃ c info, t = s.takeFault [] c (encode i) info := by
  rw [State.runStore] at h
  cases hfail : s.writeFailing xs.length with
  | some failed =>
    rw [hfail] at h
    exact .inr ⟨failed.1, failed.2, (Host.Outcome.next.inj h).symm⟩
  | none =>
    rw [hfail, guarded] at h
    rcases s.run_advance_cases { s.putBytes s.baseAddr xs with i := w } i with ⟨hadvance, e⟩ | e
    · exact .inl ⟨hadvance, State.writeFailing_eq_none_iff.1 hfail, Host.Outcome.next.inj (h.symm.trans e)⟩
    · exact .inr ⟨_, _, Host.Outcome.next.inj (h.symm.trans e)⟩

theorem State.byteAt_runStore_outside (h : s.runStore i xs w = .next t)
    (ha : ¬(s.baseAddr ≤ a ∧ a < s.baseAddr + xs.length)) : t.byteAt a = s.byteAt a := by
  rcases State.runStore_cases h with ⟨-, -, rfl⟩ | ⟨c, info, rfl⟩
  · exact s.byteAt_putBytes_outside s.baseAddr a xs ha
  · rfl

/-- Under FAULT a font byte is none of those a store may write (R41). -/
theorem State.byteAt_runStore_font (hp : s.cfg.fontWritePolicy = .fault) (h : s.runStore i xs w = .next t)
    (ha : a < 0x50) : t.byteAt a = s.byteAt a := by
  rcases State.runStore_cases h with ⟨-, hwritable, rfl⟩ | ⟨c, info, rfl⟩
  · refine s.byteAt_putBytes_outside s.baseAddr a xs fun ⟨hle, hlt⟩ => ?_
    rw [State.baseAddr] at hle hlt
    obtain ⟨-, hallow | habove⟩ := hwritable (a - s.i.toNat) (by omega)
    · exact nomatch hp.symm.trans hallow
    · omega
  · rfl

/-- The bytes of a committed store read back in their order. -/
theorem State.byteAt_runStore_stored (hwf : Memory.wf (unlisted s.cfg) s.mem = true) (h : s.runStore i xs w = .next t)
    (hcommitted : t.response = committedEffects false false false) (hk : k < xs.length) :
    t.byteAt (s.i.toNat + k) = xs[k] := by
  rcases State.runStore_cases h with ⟨-, hwritable, rfl⟩ | ⟨c, info, rfl⟩
  · obtain ⟨hlast, -⟩ := hwritable (xs.length - 1) (by omega)
    have hbound : s.baseAddr + xs.length ≤ 0x1000 := by
      rw [State.baseAddr]
      omega
    refine (s.byteAt_putBytes s.baseAddr (s.i.toNat + k) xs hbound hwf).trans ?_
    simp [State.baseAddr, hk]
  · simp [committedEffects] at hcommitted

theorem State.regsUpTo_getElem (x : Reg) (hk : k < (s.regsUpTo x).length) :
    (s.regsUpTo x)[k] = s.v[k]'(by rw [s.regsUpTo_length] at hk; omega) := by
  simp [State.regsUpTo]

end

/-! ## The statements -/

/-- Settles O23: the address that fails first is the one the guard raises, and a raised fault suppresses the step. -/
theorem firstBadAddressFaults : Obligations.FirstBadAddressFaults := by
  intro x y n s k
  refine ⟨fun hbefore hbad => ⟨fun hk => ?_, fun hk => ?_⟩, fun hbefore hbad => ⟨fun hk => ?_, fun hk => ?_⟩⟩
  · exact State.run_guarded_suppressed _ _ (State.writeFailing_eq_some hk hbefore hbad)
  · exact State.run_guarded_suppressed _ _ (State.writeFailing_eq_some (Nat.lt_succ_of_le hk) hbefore hbad)
  · exact State.run_guarded_suppressed _ _ (State.readFailing_eq_some (Nat.lt_succ_of_le hk) hbefore hbad)
  · exact State.run_guarded_suppressed _ _ (State.readFailing_eq_some hk hbefore hbad)

/-- Settles O50: both are stores, of three bytes and of X + 1. -/
theorem storesChangeOnlyTheirBytes : Obligations.StoresChangeOnlyTheirBytes := by
  intro x s t a
  refine ⟨fun h ha => ?_, fun h ha => ?_⟩
  · rw [exec_ldBVx_eq_runStore] at h
    exact State.byteAt_runStore_outside h ha
  · rw [exec_ldMemVx_eq_runStore] at h
    exact State.byteAt_runStore_outside h (by rwa [s.regsUpTo_length])

/-- Settles O24: the two stores keep clear of the font, and no other instruction writes memory. -/
theorem fontIsNeverOverwritten : Obligations.FontIsNeverOverwritten := by
  intro i s t hp h a ha
  cases i with
  | ldBVx x =>
    rw [exec_ldBVx_eq_runStore] at h
    exact State.byteAt_runStore_font hp h ha
  | ldMemVx x =>
    rw [exec_ldMemVx_eq_runStore] at h
    exact State.byteAt_runStore_font hp h ha
  | _ => exact (exec_frame h).byteAt (by simp [Instr.row]) a

/-- Settles O25: the fetch reads the two bytes at I + k and I + k + 1, which are the registers stored there. -/
theorem storedWordIsFetchedNext : Obligations.StoredWordIsFetchedNext := by
  intro x s t k hwf h hcommitted hpc hkx
  rw [exec_ldMemVx_eq_runStore] at h
  have hlen := s.regsUpTo_length x
  have stored {j : Nat} (hj : j < (s.regsUpTo x).length) := State.byteAt_runStore_stored hwf h hcommitted hj
  have hhi := stored (j := k.val) (by omega)
  have hlo := stored (j := k.val + 1) (by omega)
  rw [State.fetchWord, hpc, Nat.add_assoc, hhi, hlo, State.regsUpTo_getElem, State.regsUpTo_getElem]
  rfl

end Sys2Proof.Machine

/-! PROOFS. The statements about the encoding (30_encoding.md). What `decode` can answer is said once: an instruction whose
encoding is the word, or an error on a word of R58 (`Answers`, `decode_answers`). The opcode map is tied to the encoder by
`Instr.withFields`: a word that has the fixed bits of an instruction's row is the encoding of that instruction with the
word's own fields as operands. -/

namespace Sys2Proof

/-! ## A word is put together from its fields (R52) -/

theorem wordA_eq {w : Word} {c : Nibble} (hc : fieldClass w = c) : wordA c (fieldNNN w) = w := by
  apply BitVec.eq_of_toNat_eq
  rw [← hc, wordA_toNat, fieldClass_toNat, fieldNNN_toNat]
  omega

theorem wordXNN_eq {w : Word} {c : Nibble} {nn : Byte} (hc : fieldClass w = c) (hnn : fieldNN w = nn) :
    wordXNN c (fieldX w) nn = w := by
  apply BitVec.eq_of_toNat_eq
  rw [← hc, ← hnn, wordXNN_toNat, fieldClass_toNat, fieldX_val, fieldNN_toNat]
  omega

theorem wordXYN_eq {w : Word} {c n : Nibble} (hc : fieldClass w = c) (hn : fieldN w = n) :
    wordXYN c (fieldX w) (fieldY w) n = w := by
  apply BitVec.eq_of_toNat_eq
  rw [← hc, ← hn, wordXYN_toNat, fieldClass_toNat, fieldX_val, fieldY_val, fieldN_toNat]
  omega

/-! ## Decoding an encoded word -/

theorem decode_wordXYN_class8 (x y : Reg) (n : Nibble) : decode (wordXYN 0x8 x y n) = decodeClass8 x y n := by
  simp [decode]

theorem decode_wordXNN_classE (x : Reg) (nn : Byte) : decode (wordXNN 0xE x nn) = decodeClassE x nn := by
  simp [decode]

theorem decode_wordXNN_classF (x : Reg) (nn : Byte) : decode (wordXNN 0xF x nn) = decodeClassF x nn := by
  simp [decode]

theorem decode_encode (i : Instr) : decode (encode i) = .ok i := by
  cases i with
  | cls | ret => rfl
  | jp nnn | call nnn | ldI nnn | jpV0 nnn => simp [encode, decode]
  | seImm x nn | sneImm x nn | ldImm x nn | addImm x nn | rnd x nn => simp [encode, decode]
  | seReg x y | sneReg x y | drw x y n => simp [encode, decode]
  | ldReg x y | orReg x y | andReg x y | xorReg x y | addReg x y | subReg x y | shr x y | subnReg x y | shl x y =>
    exact decode_wordXYN_class8 x y _
  | skp x | sknp x => exact decode_wordXNN_classE x _
  | ldVxDt x | ldVxK x | ldDtVx x | ldStVx x | addIVx x | ldFVx x | ldBVx x | ldMemVx x | ldVxMem x =>
    exact decode_wordXNN_classF x _

/-! ## The unknown words of R58, class by class -/

/-- R58: the word is in one of the six groups of words that are no instruction. -/
def UnknownWord (w : Word) : Prop :=
  (w.toNat / 4096 = 0x0 ∧ w.toNat ≠ 0x00E0 ∧ w.toNat ≠ 0x00EE) ∨
  (w.toNat / 4096 = 0x5 ∧ w.toNat % 16 ≠ 0) ∨
  (w.toNat / 4096 = 0x8 ∧ w.toNat % 16 ∈ [0x8, 0x9, 0xA, 0xB, 0xC, 0xD, 0xF]) ∨
  (w.toNat / 4096 = 0x9 ∧ w.toNat % 16 ≠ 0) ∨
  (w.toNat / 4096 = 0xE ∧ w.toNat % 256 ∉ [0x9E, 0xA1]) ∨
  (w.toNat / 4096 = 0xF ∧ w.toNat % 256 ∉ [0x07, 0x0A, 0x15, 0x18, 0x1E, 0x29, 0x33, 0x55, 0x65])

section
variable {w : Word}

theorem unknownWord_class0 (hc : fieldClass w = 0x0) : UnknownWord w ↔ w ≠ 0x00E0 ∧ w ≠ 0x00EE := by
  simp [UnknownWord, ← fieldClass_toNat, hc, ← BitVec.toNat_inj]

theorem unknownWord_class5 (hc : fieldClass w = 0x5) : UnknownWord w ↔ fieldN w ≠ 0 := by
  simp [UnknownWord, ← fieldClass_toNat, ← fieldN_toNat, hc, ← BitVec.toNat_inj]

theorem unknownWord_class8 (hc : fieldClass w = 0x8) :
    UnknownWord w ↔ fieldN w ∉ [0x0, 0x1, 0x2, 0x3, 0x4, 0x5, 0x6, 0x7, 0xE] := by
  have hcompl : ∀ n : Nibble, n.toNat ∈ [0x8, 0x9, 0xA, 0xB, 0xC, 0xD, 0xF] ↔
      n ∉ [0x0, 0x1, 0x2, 0x3, 0x4, 0x5, 0x6, 0x7, 0xE] := by decide
  rw [← hcompl]
  simp [UnknownWord, ← fieldClass_toNat, ← fieldN_toNat, hc]

theorem unknownWord_class9 (hc : fieldClass w = 0x9) : UnknownWord w ↔ fieldN w ≠ 0 := by
  simp [UnknownWord, ← fieldClass_toNat, ← fieldN_toNat, hc, ← BitVec.toNat_inj]

theorem unknownWord_classE (hc : fieldClass w = 0xE) : UnknownWord w ↔ fieldNN w ∉ [0x9E, 0xA1] := by
  simp [UnknownWord, ← fieldClass_toNat, ← fieldNN_toNat, hc, ← BitVec.toNat_inj]

theorem unknownWord_classF (hc : fieldClass w = 0xF) :
    UnknownWord w ↔ fieldNN w ∉ [0x07, 0x0A, 0x15, 0x18, 0x1E, 0x29, 0x33, 0x55, 0x65] := by
  simp [UnknownWord, ← fieldClass_toNat, ← fieldNN_toNat, hc, ← BitVec.toNat_inj]

/-- The other classes have no unknown word. -/
theorem not_unknownWord {c : Nibble} (hc : fieldClass w = c) (hknown : c.toNat ∉ [0x0, 0x5, 0x8, 0x9, 0xE, 0xF]) :
    ¬UnknownWord w := by
  rw [← hc, fieldClass_toNat] at hknown
  intro hunknown
  refine hknown ?_
  rcases hunknown with ⟨h, -⟩ | ⟨h, -⟩ | ⟨h, -⟩ | ⟨h, -⟩ | ⟨h, -⟩ | ⟨h, -⟩ <;> simp [h]

/-! ## What the decoder can answer (R57, R60) -/

/-- A right answer to the word: an instruction whose encoding the word is, or an error when the word is unknown. -/
inductive Answers (w : Word) : Except DecodeError Instr → Prop
  | ok {i : Instr} (hword : encode i = w) (hknown : ¬UnknownWord w) : Answers w (.ok i)
  | error {e : DecodeError} (hunknown : UnknownWord w) : Answers w (.error e)

theorem decodeClass8_answers (hc : fieldClass w = 0x8) :
    Answers w (decodeClass8 (fieldX w) (fieldY w) (fieldN w)) := by
  have hu := unknownWord_class8 hc
  unfold decodeClass8
  split
  case h_10 => exact .error (hu.2 (by simp_all))
  all_goals
    next hn => exact .ok (wordXYN_eq hc hn) (by simp [hu, hn])

theorem decodeClassE_answers (hc : fieldClass w = 0xE) : Answers w (decodeClassE (fieldX w) (fieldNN w)) := by
  have hu := unknownWord_classE hc
  unfold decodeClassE
  split
  case h_3 => exact .error (hu.2 (by simp_all))
  all_goals
    next hnn => exact .ok (wordXNN_eq hc hnn) (by simp [hu, hnn])

theorem decodeClassF_answers (hc : fieldClass w = 0xF) : Answers w (decodeClassF (fieldX w) (fieldNN w)) := by
  have hu := unknownWord_classF hc
  unfold decodeClassF
  split
  case h_10 => exact .error (hu.2 (by simp_all))
  all_goals
    next hnn => exact .ok (wordXNN_eq hc hnn) (by simp [hu, hnn])

end

/-- The cases are the classes 0 to F, in order. -/
theorem decode_answers (w : Word) : Answers w (decode w) := by
  unfold decode
  dsimp only
  split
  next hc =>
    have hu := unknownWord_class0 hc
    split
    next hcls => exact .ok hcls.symm fun h => (hu.1 h).1 hcls
    next hcls =>
      split
      next hret => exact .ok hret.symm fun h => (hu.1 h).2 hret
      next hret => exact .error (hu.2 ⟨hcls, hret⟩)
  next hc => exact .ok (wordA_eq hc) (not_unknownWord hc (by decide))
  next hc => exact .ok (wordA_eq hc) (not_unknownWord hc (by decide))
  next hc => exact .ok (wordXNN_eq hc rfl) (not_unknownWord hc (by decide))
  next hc => exact .ok (wordXNN_eq hc rfl) (not_unknownWord hc (by decide))
  next hc =>
    have hu := unknownWord_class5 hc
    split
    next hn => exact .ok (wordXYN_eq hc hn) fun h => hu.1 h hn
    next hn => exact .error (hu.2 hn)
  next hc => exact .ok (wordXNN_eq hc rfl) (not_unknownWord hc (by decide))
  next hc => exact .ok (wordXNN_eq hc rfl) (not_unknownWord hc (by decide))
  next hc => exact decodeClass8_answers hc
  next hc =>
    have hu := unknownWord_class9 hc
    split
    next hn => exact .ok (wordXYN_eq hc hn) fun h => hu.1 h hn
    next hn => exact .error (hu.2 hn)
  next hc => exact .ok (wordA_eq hc) (not_unknownWord hc (by decide))
  next hc => exact .ok (wordA_eq hc) (not_unknownWord hc (by decide))
  next hc => exact .ok (wordXNN_eq hc rfl) (not_unknownWord hc (by decide))
  next hc => exact .ok (wordXYN_eq hc rfl) (not_unknownWord hc (by decide))
  next hc => exact decodeClassE_answers hc
  next =>
    have hc : fieldClass w = 0xF := by
      simp only [imp_false] at *
      bv_omega
    exact decodeClassF_answers hc

theorem Answers.encode_eq {w : Word} {i : Instr} : Answers w (.ok i) → encode i = w
  | .ok hword _ => hword

theorem encode_of_decode {w : Word} {i : Instr} (h : decode w = .ok i) : encode i = w :=
  (h ▸ decode_answers w).encode_eq

theorem Answers.error_iff {w : Word} {r : Except DecodeError Instr} (h : Answers w r) :
    (∃ e, r = .error e) ↔ UnknownWord w := by
  cases h with
  | ok _ hknown    => simp [hknown]
  | error hunknown => simp [hunknown]

/-! ## The rows of R55 -/

open Laws.TableRow in
/-- Every instruction's row is in the map and admits the instruction's word. -/
theorem tableRow_statement : ∀ i : Instr, Statement i
  | .cls => cls | .ret => ret | .jp nnn => jp nnn | .call nnn => call nnn | .seImm x nn => seImm x nn
  | .sneImm x nn => sneImm x nn | .seReg x y => seReg x y | .ldImm x nn => ldImm x nn | .addImm x nn => addImm x nn
  | .ldReg x y => ldReg x y | .orReg x y => orReg x y | .andReg x y => andReg x y | .xorReg x y => xorReg x y
  | .addReg x y => addReg x y | .subReg x y => subReg x y | .shr x y => shr x y | .subnReg x y => subnReg x y
  | .shl x y => shl x y | .sneReg x y => sneReg x y | .ldI nnn => ldI nnn | .jpV0 nnn => jpV0 nnn
  | .rnd x nn => rnd x nn | .drw x y n => drw x y n | .skp x => skp x | .sknp x => sknp x | .ldVxDt x => ldVxDt x
  | .ldVxK x => ldVxK x | .ldDtVx x => ldDtVx x | .ldStVx x => ldStVx x | .addIVx x => addIVx x | .ldFVx x => ldFVx x
  | .ldBVx x => ldBVx x | .ldMemVx x => ldMemVx x | .ldVxMem x => ldVxMem x

/-- Two words that agree under a mask agree in a field whose bits the mask all has. -/
theorem extractLsb_eq_of_and_eq {m v w : Word} (hi lo : Nat) (hm : m.extractLsb hi lo = BitVec.allOnes (hi - lo + 1))
    (h : v &&& m = w &&& m) : w.extractLsb hi lo = v.extractLsb hi lo := by
  have key (u : Word) : (u &&& m).extractLsb hi lo = u.extractLsb hi lo := by
    rw [BitVec.extractLsb_and, hm, BitVec.and_allOnes]
  rw [← key w, ← h, key v]

section
variable {w : Word} {c : Nibble}

theorem fieldClass_eq_of_and_eq {m v : Word} (hm : fieldClass m = 0xF) (hv : fieldClass v = c)
    (h : v &&& m = w &&& m) : fieldClass w = c :=
  (extractLsb_eq_of_and_eq 15 12 hm h).trans hv

theorem wordA_of_and_eq {nnn : Imm12} (h : wordA c nnn &&& 0xF000 = w &&& 0xF000) : wordA c (fieldNNN w) = w :=
  wordA_eq (fieldClass_eq_of_and_eq (by decide) (fieldClass_wordA c nnn) h)

theorem wordXNN_of_and_eq {x : Reg} {nn : Byte} (h : wordXNN c x nn &&& 0xF000 = w &&& 0xF000) :
    wordXNN c (fieldX w) (fieldNN w) = w :=
  wordXNN_eq (fieldClass_eq_of_and_eq (by decide) (fieldClass_wordXNN c x nn) h) rfl

theorem wordXNN_of_and_eq_nn {x : Reg} {nn : Byte} (h : wordXNN c x nn &&& 0xF0FF = w &&& 0xF0FF) :
    wordXNN c (fieldX w) nn = w :=
  wordXNN_eq (fieldClass_eq_of_and_eq (by decide) (fieldClass_wordXNN c x nn) h)
    ((extractLsb_eq_of_and_eq 7 0 (by decide) h).trans (fieldNN_wordXNN c x nn))

theorem wordXYN_of_and_eq {x y : Reg} {n : Nibble} (h : wordXYN c x y n &&& 0xF000 = w &&& 0xF000) :
    wordXYN c (fieldX w) (fieldY w) (fieldN w) = w :=
  wordXYN_eq (fieldClass_eq_of_and_eq (by decide) (fieldClass_wordXYN c x y n) h) rfl

theorem wordXYN_of_and_eq_n {x y : Reg} {n : Nibble} (h : wordXYN c x y n &&& 0xF00F = w &&& 0xF00F) :
    wordXYN c (fieldX w) (fieldY w) n = w :=
  wordXYN_eq (fieldClass_eq_of_and_eq (by decide) (fieldClass_wordXYN c x y n) h)
    ((extractLsb_eq_of_and_eq 3 0 (by decide) h).trans (fieldN_wordXYN c x y n))

end

/-- The same instruction with the word's fields as its operands. -/
def Instr.withFields (w : Word) : Instr → Instr
  | .cls        => .cls
  | .ret        => .ret
  | .jp _       => .jp (fieldNNN w)
  | .call _     => .call (fieldNNN w)
  | .seImm _ _  => .seImm (fieldX w) (fieldNN w)
  | .sneImm _ _ => .sneImm (fieldX w) (fieldNN w)
  | .seReg _ _  => .seReg (fieldX w) (fieldY w)
  | .ldImm _ _  => .ldImm (fieldX w) (fieldNN w)
  | .addImm _ _ => .addImm (fieldX w) (fieldNN w)
  | .ldReg _ _  => .ldReg (fieldX w) (fieldY w)
  | .orReg _ _  => .orReg (fieldX w) (fieldY w)
  | .andReg _ _ => .andReg (fieldX w) (fieldY w)
  | .xorReg _ _ => .xorReg (fieldX w) (fieldY w)
  | .addReg _ _ => .addReg (fieldX w) (fieldY w)
  | .subReg _ _ => .subReg (fieldX w) (fieldY w)
  | .shr _ _    => .shr (fieldX w) (fieldY w)
  | .subnReg _ _ => .subnReg (fieldX w) (fieldY w)
  | .shl _ _    => .shl (fieldX w) (fieldY w)
  | .sneReg _ _ => .sneReg (fieldX w) (fieldY w)
  | .ldI _      => .ldI (fieldNNN w)
  | .jpV0 _     => .jpV0 (fieldNNN w)
  | .rnd _ _    => .rnd (fieldX w) (fieldNN w)
  | .drw _ _ _  => .drw (fieldX w) (fieldY w) (fieldN w)
  | .skp _      => .skp (fieldX w)
  | .sknp _     => .sknp (fieldX w)
  | .ldVxDt _   => .ldVxDt (fieldX w)
  | .ldVxK _    => .ldVxK (fieldX w)
  | .ldDtVx _   => .ldDtVx (fieldX w)
  | .ldStVx _   => .ldStVx (fieldX w)
  | .addIVx _   => .addIVx (fieldX w)
  | .ldFVx _    => .ldFVx (fieldX w)
  | .ldBVx _    => .ldBVx (fieldX w)
  | .ldMemVx _  => .ldMemVx (fieldX w)
  | .ldVxMem _  => .ldVxMem (fieldX w)

theorem Instr.row_withFields (w : Word) (i : Instr) : (i.withFields w).row = i.row := by cases i <;> rfl

/-- A word with the fixed bits of the instruction's row differs from the instruction's own word in the operands only. -/
theorem encode_withFields {i : Instr} {w : Word} (h : i.row.admits w = true) : encode (i.withFields w) = w := by
  obtain ⟨-, hi⟩ := tableRow_statement i
  have hbits : encode i &&& i.row.mask = w &&& i.row.mask := (beq_iff_eq.1 hi).trans (beq_iff_eq.1 h).symm
  cases i with
  | cls | ret => exact hbits.trans BitVec.and_allOnes
  | jp | call | ldI | jpV0 => exact wordA_of_and_eq hbits
  | seImm | sneImm | ldImm | addImm | rnd => exact wordXNN_of_and_eq hbits
  | seReg | sneReg | ldReg | orReg | andReg | xorReg | addReg | subReg | shr | subnReg | shl =>
    exact wordXYN_of_and_eq_n hbits
  | drw => exact wordXYN_of_and_eq hbits
  | skp | sknp | ldVxDt | ldVxK | ldDtVx | ldStVx | addIVx | ldFVx | ldBVx | ldMemVx | ldVxMem =>
    exact wordXNN_of_and_eq_nn hbits

theorem exists_decode_of_admits {r : OpcodeRow} {w : Word} (hr : r ∈ opcodeMap) (h : r.admits w = true) :
    ∃ i : Instr, i.row = r ∧ decode w = .ok i := by
  obtain ⟨sample, -, rfl⟩ := List.mem_map.1 hr
  refine ⟨sample.withFields w, sample.row_withFields w, ?_⟩
  have hdecode := decode_encode (sample.withFields w)
  rwa [encode_withFields h] at hdecode

theorem row_admits_of_decode {w : Word} {i : Instr} (h : decode w = .ok i) : i.row.admits w = true :=
  encode_of_decode h ▸ (tableRow_statement i).2

theorem wordWellFormed_iff (w : Word) : wordWellFormed w = true ↔ ∃ i, decode w = .ok i := by
  rw [wordWellFormed, List.any_eq_true]
  constructor
  · rintro ⟨r, hr, h⟩
    obtain ⟨i, -, hi⟩ := exists_decode_of_admits hr h
    exact ⟨i, hi⟩
  · rintro ⟨i, hi⟩
    obtain ⟨hrow, -⟩ := tableRow_statement i
    exact ⟨i.row, hrow, row_admits_of_decode hi⟩

/-- A word decodes to one instruction, so one row admits it. -/
theorem row_eq_of_admits {w : Word} {r₁ r₂ : OpcodeRow} (h₁ : r₁ ∈ opcodeMap) (h₂ : r₂ ∈ opcodeMap)
    (ha₁ : r₁.admits w = true) (ha₂ : r₂.admits w = true) : r₁ = r₂ := by
  obtain ⟨i₁, rfl, hi₁⟩ := exists_decode_of_admits h₁ ha₁
  obtain ⟨i₂, rfl, hi₂⟩ := exists_decode_of_admits h₂ ha₂
  rw [Except.ok.inj (hi₁.symm.trans hi₂)]

/-! ## The statements -/

/-- Settles O1: the fields of an encoded word are its operands, and its fixed bits select the instruction. -/
theorem decodeOfEncodeIsTheInstruction : Obligations.DecodeOfEncodeIsTheInstruction := decode_encode

/-- Settles O2: every answer of the decoder is a right one. -/
theorem encodeOfDecodeIsTheWord : Obligations.EncodeOfDecodeIsTheWord := fun _ _ h => encode_of_decode h

/-- Settles O3: a word that a row admits is the encoding of an instruction of that row, which is what it decodes to. -/
theorem decoderAgreesWithOpcodeMap : Obligations.DecoderAgreesWithOpcodeMap := fun w =>
  ⟨wordWellFormed_iff w, fun _ h => row_admits_of_decode h, fun _ h₁ _ h₂ ha₁ ha₂ => row_eq_of_admits h₁ h₂ ha₁ ha₂⟩

/-- Settles O4: the decoder answers an error on the unknown words and on no other. -/
theorem unknownWordsAreTheSixGroups : Obligations.UnknownWordsAreTheSixGroups := fun w => (decode_answers w).error_iff

/-- Settles O5: each word is decoded by evaluation. -/
theorem sampleWordsDecode : Obligations.SampleWordsDecode := by
  unfold Obligations.SampleWordsDecode
  decide

end Sys2Proof

/-! PROOFS. The statements about the step (40_step_cycle.md). FETCH and DECODE have three ends, one equation each
(`State.fetchExecute_of_decode`, `_of_unknown`, `_of_illegal`); STEP and REPORT_KEY are reduced to them. Where an instruction
goes and whether it waits is said once per form of the next pc (`Goes`) and once per instruction (`exec_goes`); a committed
step hands it on to the next state (`exec_committed`). -/

namespace Sys2Proof.Machine

/-! ## FETCH and DECODE (R68) -/

theorem State.canAdvance_zero_iff (s : State) : s.CanAdvance 0 ↔ pcLegal s.pc.toNat = true := (pcLegal_iff _).symm

section
variable {s t : State} {i : Instr} {e : DecodeError}

theorem State.fetchExecute_of_decode (hpc : s.CanAdvance 0) (h : decode s.fetchWord = .ok i) :
    s.fetchExecute = exec i s := by
  simp [State.fetchExecute, s.canAdvance_zero_iff.1 hpc, h]

theorem State.fetchExecute_of_unknown (hpc : s.CanAdvance 0) (h : decode s.fetchWord = .error e) :
    s.fetchExecute = .next (s.unknownOp s.fetchWord) := by
  simp [State.fetchExecute, s.canAdvance_zero_iff.1 hpc, h]

theorem State.fetchExecute_of_illegal (hpc : ¬s.CanAdvance 0) :
    s.fetchExecute = .next (s.takeFault [] .addrPc 0 s.pc.toNat) := by
  simp [State.fetchExecute, mt s.canAdvance_zero_iff.2 hpc]

/-! ## STEP and its key event (R66, R67) -/

theorem State.command_step_absent (h : s.initialised = true) : s.command (.step .absent) = s.fetchExecute := if_pos h

theorem step_of_driver_nil (h : s.driver = []) : step s = s.command (.step .absent) := by
  cases s
  subst h
  rfl

theorem step_of_driver_cons {c : Command} {rest : List Command} (h : s.driver = c :: rest) :
    step s = State.command { s with driver := rest } c := by
  rw [step, State.drive, State.nextCommand, h]
  rfl

theorem State.initialised_of_whenInitialised {o : Host.Outcome State Fault Refusal} (h : s.whenInitialised o = .next t) :
    s.initialised = true := by
  by_contra hno
  exact nomatch (State.whenInitialised_of_not (Bool.eq_false_iff.2 hno) o).symm.trans h

variable {k : Option Nat}

theorem keyReport_eq_some_none_iff : keyReport k = some none ↔ k = none := by
  cases k <;> simp [keyReport]

/-- A key report that has a meaning latches its value. -/
theorem State.reportKey_eq_next_iff :
    s.reportKey k = .next t ↔ ∃ key, keyReport k = some key ∧ t = { s with pendingKey := key } := by
  cases hk : keyReport k with
  | none     => simp [State.reportKey, hk]
  | some key => simp [State.reportKey, hk, eq_comm]

theorem State.stepCommand_present_of_reportKey (h : s.reportKey k = .next t) :
    s.stepCommand (.present k) = t.fetchExecute := by
  simp only [State.stepCommand, h]

theorem State.command_step_present_of_reportKey (h : s.command (.reportKey k) = .next t) :
    s.command (.step (.present k)) = t.command (.step .absent) := by
  have hinit := State.initialised_of_whenInitialised h
  have hreport := State.of_whenInitialised h
  have hinit' : t.initialised = true := by
    obtain ⟨key, -, rfl⟩ := State.reportKey_eq_next_iff.1 hreport
    exact hinit
  calc s.command (.step (.present k)) = s.stepCommand (.present k) := if_pos hinit
    _ = t.fetchExecute := State.stepCommand_present_of_reportKey hreport
    _ = t.command (.step .absent) := (State.command_step_absent hinit').symm

/-- A STEP with a key event that is accepted has latched the event's key. -/
theorem State.stepCommand_present_cases (h : s.stepCommand (.present k) = .next t) :
    ∃ key, keyReport k = some key ∧ State.fetchExecute { s with pendingKey := key } = .next t := by
  cases hr : s.reportKey k with
  | next m =>
    obtain ⟨key, hk, rfl⟩ := State.reportKey_eq_next_iff.1 hr
    exact ⟨key, hk, (State.stepCommand_present_of_reportKey hr).symm.trans h⟩
  | fault f   => exact nomatch f
  | refused r => simp [State.stepCommand, hr] at h

/-! ## An unknown word (R73) -/

theorem State.record_recorded (s : State) (c : Cause) (op : Word) (n : Nat) : Recorded s (s.record c op n) c op n := by
  obtain ⟨-, h, -⟩ := s.takeFault_suppressed c op n
  exact h

/-- Whatever is recorded after a fault, the first-fault registers stay as that fault's recording left them (R132). -/
theorem Recorded.first_kept {u : State} {c : Cause} {op : Word} {info : Nat} (h : Recorded s t c op info)
    (hkept : RecordsKept t u) :
    (s.fcause = 0 → u.fcause = c.code ∧ u.fpc = s.pc ∧ u.fop = op ∧ u.faddr = BitVec.ofNat 17 info) ∧
    (s.fcause ≠ 0 → u.fcause = s.fcause ∧ u.fpc = s.fpc ∧ u.fop = s.fop ∧ u.faddr = s.faddr) := by
  obtain ⟨-, hfirst, hlater⟩ := h
  obtain ⟨-, hregs⟩ := hkept
  have hset : t.fcause ≠ 0 := by
    by_cases h0 : s.fcause = 0
    · exact (hfirst h0).1 ▸ c.code_ne_zero
    · exact (hlater h0).1 ▸ h0
  obtain ⟨hcause, hpc, hop, haddr⟩ := hregs hset
  rw [hcause, hpc, hop, haddr]
  exact ⟨hfirst, hlater⟩

theorem State.unknownOp_of_canAdvance (w : Word) (h : s.CanAdvance 2) :
    s.unknownOp w =
      { s.record .unknownOp w 0 with
        pc := s.pc + 2
        waitingKey := false
        response := .effects { committed := true, displayChanged := false, timersWritten := false, waitingForKey := false,
                               halted := false, reports := [.unknownOp] } } := by
  refine (if_pos (h.pcLegal rfl)).trans ?_
  simp [State.commit, ofNat_pc_add]

theorem State.unknownOp_of_last (w : Word) (h : s.pc = 0xFFE) :
    s.unknownOp w = (s.record .unknownOp w 0).takeFault [.unknownOp] .addrPc w 0x1000 := by
  have hend : s.pc.toNat + 2 = 0x1000 := by rw [h]; rfl
  simp [State.unknownOp, State.advance, State.finish, hend, pcLegal]

theorem State.unknownOp_waitingKey (s : State) (w : Word) : (s.unknownOp w).waitingKey = false := by
  simp only [State.unknownOp, State.advance, State.finish]
  split <;> rfl

end

/-! ## Where an instruction goes (R70, R74, R85, R86) -/

/-- The instructions that give their own target. -/
def transfers : List String := ["RET", "JP", "CALL", "JP_V0"]

def skips : List String := ["SE_IMM", "SNE_IMM", "SE_REG", "SNE_REG", "SKP", "SKNP"]

/-- The instructions that do not always go to pc + 2. -/
def ownPc : List String := transfers ++ skips ++ ["LD_VX_K"]

/-- The next pc and `wait` that EXECUTE may hand to CHECK for the instruction `i` in the state `s`. -/
structure Goes (i : Instr) (s : State) (npc : Nat) (wait : Bool) : Prop where
  plain : i.row.mnemonic ∉ ownPc → npc = s.pc.toNat + 2
  skip  : i.row.mnemonic ∈ skips → npc = s.pc.toNat + 2 ∨ npc = s.pc.toNat + 4
  key   : i.row.mnemonic = "LD_VX_K" → npc = if s.pendingKey = none then s.pc.toNat else s.pc.toNat + 2
  waits : wait = true ↔ i.row.mnemonic = "LD_VX_K" ∧ s.pendingKey = none

/-- The same of an instruction's own part of a step, if it is done. -/
def Attempt.Goes (i : Instr) (s : State) : Attempt → Prop
  | .done d    => Machine.Goes i s d.npc d.wait
  | .raise _ _ => True

section
variable {i : Instr} {s t : State}

theorem mnemonic_eq_ldVxK_iff : i.row.mnemonic = "LD_VX_K" ↔ ∃ x, i = .ldVxK x := by
  cases i <;> simp [Instr.row]

theorem mem_ownPc_of_mem_skips {m : String} (h : m ∈ skips) : m ∈ ownPc :=
  List.mem_append_left _ (List.mem_append_right _ h)

theorem ldVxK_mem_ownPc : "LD_VX_K" ∈ ownPc := by decide

theorem ldVxK_notMem_skips : "LD_VX_K" ∉ skips := by decide

theorem notMem_skips_of_mem_transfers : ∀ {m : String}, m ∈ transfers → m ∉ skips := by decide

theorem ldVxK_notMem_transfers : "LD_VX_K" ∉ transfers := by decide

theorem Goes.next (h : i.row.mnemonic ∉ ownPc) : Goes i s (s.pc.toNat + 2) false where
  plain _ := rfl
  skip hi := absurd (mem_ownPc_of_mem_skips hi) h
  key hi  := absurd (hi ▸ ldVxK_mem_ownPc) h
  waits   := ⟨nofun, fun ⟨hi, _⟩ => absurd (hi ▸ ldVxK_mem_ownPc) h⟩

theorem Goes.target (h : i.row.mnemonic ∈ transfers) (npc : Nat) : Goes i s npc false where
  plain hi := absurd (List.mem_append_left _ (List.mem_append_left _ h)) hi
  skip hi  := absurd hi (notMem_skips_of_mem_transfers h)
  key hi   := absurd (hi ▸ h) ldVxK_notMem_transfers
  waits    := ⟨nofun, fun ⟨hi, _⟩ => absurd (hi ▸ h) ldVxK_notMem_transfers⟩

theorem State.skipIf_goes (h : i.row.mnemonic ∈ skips) (taken : Bool) : (s.skipIf taken).Goes i s where
  plain hi := absurd (mem_ownPc_of_mem_skips h) hi
  skip _   := by cases taken with
    | false => exact .inl rfl
    | true  => exact .inr rfl
  key hi   := absurd (hi ▸ h) ldVxK_notMem_skips
  waits    := ⟨nofun, fun ⟨hi, _⟩ => absurd (hi ▸ h) ldVxK_notMem_skips⟩

theorem guarded_goes {a : Attempt} (failing : Option (Cause × Nat)) (h : a.Goes i s) : (guarded failing a).Goes i s := by
  cases failing with
  | none   => exact h
  | some _ => trivial

/-- FX0A: to its own address while it waits, to pc + 2 with a key. -/
theorem Goes.keyWait {x : Reg} {npc : Nat} {wait : Bool}
    (hnpc : npc = if s.pendingKey = none then s.pc.toNat else s.pc.toNat + 2) (hwait : wait = true ↔ s.pendingKey = none) :
    Goes (.ldVxK x) s npc wait where
  plain hi := absurd ldVxK_mem_ownPc hi
  skip hi  := absurd hi ldVxK_notMem_skips
  key _    := hnpc
  waits    := hwait.trans (and_iff_right rfl).symm

/-- What an instruction that is neither a transfer of control nor a waiting FX0A leaves of the next pc. -/
theorem Goes.advances {npc : Nat} {wait : Bool} (h : Goes i s npc wait) (hi : i.row.mnemonic ∉ transfers)
    (hwait : ¬(i.row.mnemonic = "LD_VX_K" ∧ s.pendingKey = none)) : npc = s.pc.toNat + 2 ∨ npc = s.pc.toNat + 4 := by
  by_cases hown : i.row.mnemonic ∈ ownPc
  · rcases List.mem_append.1 hown with hown | hkey
    · exact h.skip ((List.mem_append.1 hown).resolve_left hi)
    · have hkey := List.mem_singleton.1 hkey
      left
      rw [h.key hkey, if_neg fun hnone => hwait ⟨hkey, hnone⟩]
  · exact .inl (h.plain hown)

theorem exec_goes (i : Instr) (s : State) :
    ∃ a : Attempt, exec i s = .next (s.finish [] (encode i) a) ∧ a.Goes i s := by
  cases i with
  | jp | jpV0 => exact ⟨_, rfl, Goes.target (by simp [Instr.row, transfers]) _⟩
  | call nnn =>
    refine ⟨_, rfl, ?_⟩
    split
    case isTrue  => exact Goes.target (by simp [Instr.row, transfers]) _
    case isFalse => trivial
  | ret =>
    refine ⟨_, rfl, ?_⟩
    split
    next => trivial
    next => exact Goes.target (by simp [Instr.row, transfers]) _
  | seImm | sneImm | seReg | sneReg | skp | sknp =>
    exact ⟨_, rfl, State.skipIf_goes (by simp [Instr.row, skips]) _⟩
  | ldVxK x =>
    refine ⟨_, rfl, ?_⟩
    split
    next hkey => exact Goes.keyWait (by simp [hkey]) (by simp [hkey])
    next hkey => exact Goes.keyWait (by simp [hkey]) (by simp [hkey])
  | drw | ldBVx | ldMemVx | ldVxMem =>
    exact ⟨_, rfl, guarded_goes _ (Goes.next (by simp [Instr.row, ownPc, transfers, skips]))⟩
  | _ => exact ⟨_, rfl, Goes.next (by simp [Instr.row, ownPc, transfers, skips])⟩

/-! ## The next pc and `waiting_key` after a step -/

/-- A committed step goes to a legal pc where its instruction goes, and leaves `wait` in waiting_key (R71, R72). -/
theorem exec_committed {d w k : Bool} (h : exec i s = .next t) (hcommitted : t.response = committedEffects d w k) :
    Goes i s t.pc.toNat t.waitingKey ∧ pcLegal t.pc.toNat = true := by
  obtain ⟨a, e, ha⟩ := exec_goes i s
  obtain rfl := Host.Outcome.next.inj (h.symm.trans e)
  rcases s.finish_cases [] (encode i) a with ⟨d, rfl, hpc, e⟩ | ⟨d, -, -, e⟩ | ⟨c, n, -, e⟩ <;>
    rw [e] at hcommitted ⊢
  · have hval : (State.commit [] d).pc.toNat = d.npc := by
      obtain ⟨-, hrange⟩ := (pcLegal_iff _).1 hpc
      rw [State.commit_pc, BitVec.toNat_ofNat]
      omega
    rw [hval]
    exact ⟨ha, hpc⟩
  · simp [committedEffects] at hcommitted
  · simp [committedEffects] at hcommitted

/-- The two ends of an instruction (R72, R133): a committed next state, or a fault of R131 that has an FSR bit. -/
theorem exec_ends (h : exec i s = .next t) :
    (∃ d w k, t.response = committedEffects d w k) ∨
    ∃ c n, c ≠ .loadError ∧ t = s.takeFault [] c (encode i) n := by
  obtain ⟨a, rfl, ha⟩ := exec_cases h
  rcases s.finish_cases [] (encode i) a with ⟨d, -, -, e⟩ | ⟨d, -, -, e⟩ | ⟨c, n, rfl, e⟩ <;> rw [e]
  · exact .inl ⟨_, _, _, rfl⟩
  · exact .inr ⟨.addrPc, d.npc, nofun, rfl⟩
  · exact .inr ⟨c, n, ha, rfl⟩

theorem Cause.mask_ne_zero {c : Cause} (h : c ≠ .loadError) : c.mask ≠ 0 := by
  cases c with
  | loadError => exact absurd rfl h
  | _ => decide

theorem State.takeFault_fsr_ne_zero (s : State) (l : List Cause) {c : Cause} (hc : c ≠ .loadError) (op : Word) (n : Nat) :
    (s.takeFault l c op n).fsr ≠ 0 := by
  intro h
  exact Cause.mask_ne_zero hc (BitVec.or_eq_zero_iff.1 h).2

/-- FX0A without a key commits at its own pc, if that is legal (R121). -/
theorem exec_ldVxK_waits (x : Reg) (hpc : s.CanAdvance 0) (hkey : s.pendingKey = none) :
    exec (.ldVxK x) s = .next (State.commit [] { state := s, npc := s.pc.toNat, wait := true }) := by
  rw [← State.run_done s (.ldVxK x) _ (s.canAdvance_zero_iff.1 hpc)]
  simp only [exec, execLdVxK, hkey]

theorem exec_waitingKey_iff (hpc : s.CanAdvance 0) (h : exec i s = .next t) :
    t.waitingKey = true ↔ (∃ x, i = .ldVxK x) ∧ s.pendingKey = none := by
  constructor
  · intro hwait
    rcases exec_ends h with ⟨d, w, k, hcommitted⟩ | ⟨c, n, -, rfl⟩
    · obtain ⟨hgoes, -⟩ := exec_committed h hcommitted
      exact (hgoes.waits.1 hwait).imp_left mnemonic_eq_ldVxK_iff.1
    · exact nomatch hwait
  · rintro ⟨⟨x, rfl⟩, hkey⟩
    obtain rfl := Host.Outcome.next.inj (h.symm.trans (exec_ldVxK_waits x hpc hkey))
    rfl

theorem State.fetchExecute_waitingKey_iff (h : s.fetchExecute = .next t) :
    t.waitingKey = true ↔ s.CanAdvance 0 ∧ (∃ x, decode s.fetchWord = .ok (.ldVxK x)) ∧ s.pendingKey = none := by
  by_cases hpc : s.CanAdvance 0
  · cases hd : decode s.fetchWord with
    | ok i =>
      rw [State.fetchExecute_of_decode hpc hd] at h
      simp [exec_waitingKey_iff hpc h, hpc]
    | error e =>
      rw [State.fetchExecute_of_unknown hpc hd] at h
      obtain rfl := Host.Outcome.next.inj h
      simp [State.unknownOp_waitingKey]
  · rw [State.fetchExecute_of_illegal hpc] at h
    obtain rfl := Host.Outcome.next.inj h
    simp [hpc]

end

/-! ## The statements -/

/-- Settles O40: the key report and the STEP with a key event both come to FETCH with the same key latched. -/
theorem keyEventIsAReportBeforeTheStep : Obligations.KeyEventIsAReportBeforeTheStep := by
  intro s m k rest h
  rw [step_of_driver_cons rfl] at h
  have hinit : s.initialised = true := State.initialised_of_whenInitialised h
  obtain ⟨key, hk, rfl⟩ := State.reportKey_eq_next_iff.1 (State.of_whenInitialised h)
  have hreport : State.command { s with driver := rest } (.reportKey k) =
      .next { s with driver := rest, pendingKey := key } :=
    (if_pos hinit).trans (State.reportKey_eq_next_iff.2 ⟨key, hk, rfl⟩)
  rw [step_of_driver_cons rfl, step_of_driver_cons rfl]
  exact State.command_step_present_of_reportKey hreport

/-- Settles O41: the report is recorded first, so a fault after it finds the first-fault registers taken. -/
theorem unknownWordIsReported : Obligations.UnknownWordIsReported := by
  intro s e hinit hd
  have step_eq (hpc : s.CanAdvance 0) : s.command (.step .absent) = .next (s.unknownOp s.fetchWord) :=
    (State.command_step_absent hinit).trans (State.fetchExecute_of_unknown hpc hd)
  have hrec := s.record_recorded .unknownOp s.fetchWord 0
  refine ⟨fun hadvance => ?_, fun hlast => ?_⟩
  · obtain ⟨heven, hrange⟩ := hadvance
    have hpc : s.CanAdvance 0 := ⟨heven, Nat.le_of_add_right_le hrange⟩
    rw [step_eq hpc, State.unknownOp_of_canAdvance _ ⟨heven, hrange⟩]
    exact ⟨_, rfl, rfl, rfl, hrec, rfl, rfl⟩
  · have hpc : s.CanAdvance 0 := by rw [State.CanAdvance, hlast]; decide
    rw [step_eq hpc, State.unknownOp_of_last _ hlast]
    obtain ⟨hfirst, hkept⟩ := hrec.first_kept (State.takeFault_kept _ [.unknownOp] .addrPc s.fetchWord 0x1000)
    refine ⟨_, rfl, rfl, BitVec.or_assoc .., fun h => ?_, hkept, rfl, rfl⟩
    obtain ⟨hcause, hpc', hop, haddr⟩ := hfirst h
    exact ⟨hcause, hpc'.trans hlast, hop, haddr⟩

/-- Settles O46: a waiting FX0A commits at every legal pc, and no other end of a step sets waiting_key. -/
theorem waitingKeyIsExact : Obligations.WaitingKeyIsExact := by
  intro s t e h
  have h := State.of_whenInitialised h
  cases e with
  | absent =>
    have h : s.fetchExecute = .next t := h
    simp [State.fetchExecute_waitingKey_iff h]
  | present k =>
    obtain ⟨key, hk, hfetch⟩ := State.stepCommand_present_cases h
    have hkey : key = none ↔ k = none := by rw [← keyReport_eq_some_none_iff, hk, Option.some.injEq]
    have hexact : t.waitingKey = true ↔
        s.CanAdvance 0 ∧ (∃ x, decode s.fetchWord = .ok (.ldVxK x)) ∧ key = none :=
      State.fetchExecute_waitingKey_iff hfetch
    simp [hexact, hkey]

/-- Settles O47: a committed step goes where its instruction goes. -/
theorem nextPcFollowsTheRules : Obligations.NextPcFollowsTheRules := by
  rintro i s t h ⟨d, w, k, hcommitted⟩
  obtain ⟨hgoes, -⟩ := exec_committed h hcommitted
  exact ⟨hgoes.plain, hgoes.skip, hgoes.key⟩

/-- Settles O48: had the step committed, its next pc would be 0x1000 or 0x1002. -/
theorem nothingRunsOffTheEnd : Obligations.NothingRunsOffTheEnd := by
  intro i s t hpc h hi hwait
  rcases exec_ends h with ⟨d, w, k, hcommitted⟩ | ⟨c, n, hc, rfl⟩
  · obtain ⟨hgoes, hlegal⟩ := exec_committed h hcommitted
    obtain ⟨-, hrange⟩ := (pcLegal_iff _).1 hlegal
    have hlast : s.pc.toNat = 0xFFE := by rw [hpc]; rfl
    have hperm : transfers.Perm ["JP", "CALL", "RET", "JP_V0"] := by decide
    have hnpc := hgoes.advances (fun hmem => hi (hperm.mem_iff.1 hmem)) hwait
    omega
  · obtain ⟨hframe, -, hwaiting, -⟩ := s.takeFault_suppressed c (encode i) n
    exact ⟨hframe, s.takeFault_fsr_ne_zero [] hc _ _, hwaiting⟩

/-- Settles O39: taking the command from the driver's list changes neither pc nor memory. -/
theorem stepRunsTheDecodedInstruction : Obligations.StepRunsTheDecodedInstruction := by
  intro s i hinit hpc hd
  refine ⟨fun hdriver => ?_, fun rest hdriver => ?_⟩
  · rw [step_of_driver_nil hdriver, State.command_step_absent hinit, State.fetchExecute_of_decode hpc hd]
  · rw [step_of_driver_cons hdriver]
    exact (State.command_step_absent (s := { s with driver := rest }) hinit).trans (State.fetchExecute_of_decode hpc hd)

/-- Settles O42: the fetch faults before a word is read. -/
theorem illegalPcFaultsAtFetch : Obligations.IllegalPcFaultsAtFetch := by
  intro s hinit hpc
  have hillegal : ¬s.CanAdvance 0 := by
    rintro ⟨heven, hrange⟩
    omega
  rw [State.command_step_absent hinit, State.fetchExecute_of_illegal hillegal]
  exact ⟨_, rfl, s.takeFault_suppressed .addrPc 0 s.pc.toNat⟩

end Sys2Proof.Machine

/-! PROOFS. The statements about control transfer (41_control_flow.md). Each instruction hands a working copy and a next pc
to CHECK: a legal next pc is committed (`State.run_jump`), any other suppresses the step (`State.run_bad_suppressed`). CALL
and RET are the two operations `State.pushed` and `State.popped`; the two statements about the stack and the round trip
CALL, RET are read off them. A skip of every kind is settled once, in `State.skipsIf_of_exec`. -/

namespace Sys2Proof.Machine

/-! ## CHECK of a next pc (R71) -/

theorem pcLegal_eq_false_iff (n : Nat) : pcLegal n = false ↔ n % 2 = 1 ∨ n > 0xFFE := by
  rw [← Bool.not_eq_true, pcLegal_iff]
  omega

/-- A 12-bit target is in range, so only its parity is checked. -/
theorem pcLegal_imm12_iff (nnn : Imm12) : pcLegal nnn.toNat = true ↔ nnn.toNat % 2 = 0 := by
  have hlt := nnn.isLt
  rw [pcLegal_iff]
  omega

section
variable {s u : State} {i : Instr}

theorem State.run_jump {n : Nat} {pc : Word} (hpc : pc.toNat = n) (hlegal : pcLegal n = true) :
    s.run i (.done { state := u, npc := n }) = .next (u.committedAt pc) := by
  rw [State.run_done s i _ hlegal, u.commit_plain n pc hpc]

theorem State.run_jump_imm12 {nnn : Imm12} (heven : nnn.toNat % 2 = 0) :
    s.run i (.done { state := u, npc := nnn.toNat }) = .next (u.committedAt (nnn.setWidth 16)) :=
  State.run_jump (BitVec.toNat_setWidth_of_le (by decide)) ((pcLegal_imm12_iff nnn).2 heven)

theorem State.run_bad_suppressed {d : Done} (h : pcLegal d.npc = false) :
    ∃ t, s.run i (.done d) = .next t ∧ Suppressed s t .addrPc (encode i) d.npc :=
  ⟨_, s.run_bad i d h, s.takeFault_suppressed .addrPc (encode i) d.npc⟩

theorem State.run_raise_suppressed (c : Cause) (n : Nat) :
    ∃ t, s.run i (.raise c n) = .next t ∧ Suppressed s t c (encode i) n :=
  ⟨_, s.run_raise i c n, s.takeFault_suppressed c (encode i) n⟩

/-! ## CALL and RET (R78, R79) -/

/-- CALL's working copy: the address after the CALL in the next free slot. -/
def State.pushed (s : State) (h : s.sp.val < 16) : State :=
  { s with stack := s.stack.set s.sp.val (s.pc + 2), sp := ⟨s.sp.val + 1, Nat.succ_lt_succ h⟩ }

/-- RET's working copy: slot k is the next free one again, and keeps its entry. -/
def State.popped (s : State) (k : Fin 16) : State := { s with sp := k.castSucc }

theorem exec_call_of_room (nnn : Imm12) (h : s.sp.val < 16) :
    exec (.call nnn) s = s.run (.call nnn) (.done { state := s.pushed h, npc := nnn.toNat }) := by
  simp only [exec, execCall, h, ↓reduceDIte, State.pushed]

theorem exec_call_of_full (nnn : Imm12) (h : s.sp = 16) :
    exec (.call nnn) s = s.run (.call nnn) (.raise .stackOvf nnn.toNat) := by
  have hfull : ¬s.sp.val < 16 := by rw [h]; decide
  simp only [exec, execCall, hfull, ↓reduceDIte]

theorem exec_call_commits {nnn : Imm12} (h : s.sp.val < 16) (heven : nnn.toNat % 2 = 0) :
    exec (.call nnn) s = .next ((s.pushed h).committedAt (nnn.setWidth 16)) := by
  rw [exec_call_of_room nnn h, State.run_jump_imm12 heven]

theorem exec_ret_of_entry {k : Fin 16} (h : s.sp.val = k.val + 1) :
    exec .ret s = s.run .ret (.done { state := s.popped k, npc := s.stack[k].toNat }) := by
  have hsp : s.sp = ⟨k.val + 1, Nat.succ_lt_succ k.isLt⟩ := Fin.ext h
  simp only [exec, execRet, hsp]
  rfl

theorem exec_ret_of_empty (h : s.sp = 0) : exec .ret s = s.run .ret (.raise .stackUnf 0) := by
  have hsp : s.sp = ⟨0, Nat.zero_lt_succ 16⟩ := h
  simp only [exec, execRet, hsp]

theorem exec_ret_commits {k : Fin 16} (h : s.sp.val = k.val + 1) (hlegal : pcLegal s.stack[k].toNat = true) :
    exec .ret s = .next ((s.popped k).committedAt s.stack[k]) := by
  rw [exec_ret_of_entry h, State.run_jump rfl hlegal]

/-! ## Skips (R81 to R86) -/

/-- An instruction that is a skip on `b`, and `b` is its test: it commits where it goes, or that is no legal pc. -/
theorem State.skipsIf_of_exec {taken : Prop} [Decidable taken] {b : Bool} (hexec : exec i s = s.run i (s.skipIf b))
    (htest : b = true ↔ taken) (heven : s.pc.toNat % 2 = 0) : s.SkipsIf i taken := by
  simp only [State.SkipsIf, ← htest, hexec]
  refine ⟨fun hrange => s.run_skipIf i b ⟨heven, hrange⟩, fun hbeyond => ?_⟩
  exact State.run_bad_suppressed ((pcLegal_eq_false_iff _).2 (.inr hbeyond))

end

/-! ## The statements -/

/-- Settles O15: the address RET pops is the one CALL pushed, and from `s` that is a legal pc. -/
theorem callThenRetComesBack : Obligations.CallThenRetComesBack := by
  intro nnn s t m hroom hadvance heven hcall hsp hstack
  obtain rfl := Host.Outcome.next.inj ((exec_call_commits hroom heven).symm.trans hcall)
  have htop : m.sp.val = s.sp.val + 1 := congrArg Fin.val hsp
  have hentry : m.stack[(⟨s.sp.val, hroom⟩ : Fin 16)] = s.pc + 2 := by
    rw [hstack]
    exact Vector.getElem_set_self hroom
  have hreturn : (s.pc + 2).toNat = s.pc.toNat + 2 := by
    obtain ⟨-, hrange⟩ := hadvance
    bv_omega
  have hret := exec_ret_commits (k := ⟨s.sp.val, hroom⟩) htop (by rw [hentry, hreturn]; exact hadvance.pcLegal rfl)
  rw [hentry] at hret
  exact ⟨_, hret, hreturn, rfl, rfl⟩

/-- Settles O17: all four are skips on their test. -/
theorem skipsTestRegisters : Obligations.SkipsTestRegisters := by
  intro x y nn s
  refine ⟨decode_encode (.seImm x nn), decode_encode (.sneImm x nn), decode_encode (.seReg x y),
    decode_encode (.sneReg x y), fun heven => ⟨?_, ?_, ?_, ?_⟩⟩
  · exact State.skipsIf_of_exec rfl beq_iff_eq heven
  · exact State.skipsIf_of_exec rfl bne_iff_ne heven
  · exact State.skipsIf_of_exec rfl beq_iff_eq heven
  · exact State.skipsIf_of_exec rfl bne_iff_ne heven

/-- Settles O12: of a 12-bit target only the parity can be wrong. -/
theorem jpJumpsOrFaults : Obligations.JpJumpsOrFaults := by
  intro nnn s
  refine ⟨decode_encode (.jp nnn), fun heven => ?_, fun hodd => ?_⟩
  · exact State.run_jump_imm12 heven
  · exact State.run_bad_suppressed ((pcLegal_eq_false_iff _).2 (.inl hodd))

/-- Settles O13: room is checked before the target is. -/
theorem callPushesOrFaults : Obligations.CallPushesOrFaults := by
  intro nnn s
  refine ⟨decode_encode (.call nnn), fun hroom heven => ?_, fun hroom hodd => ?_, fun hfull => ?_⟩
  · exact ⟨_, exec_call_commits hroom heven, rfl, rfl⟩
  · rw [exec_call_of_room nnn hroom]
    exact State.run_bad_suppressed ((pcLegal_eq_false_iff _).2 (.inl hodd))
  · rw [exec_call_of_full nnn hfull]
    exact State.run_raise_suppressed .stackOvf nnn.toNat

/-- Settles O14: the popped address is checked like any other next pc. -/
theorem retPopsOrFaults : Obligations.RetPopsOrFaults := by
  refine ⟨decode_encode .ret, fun s => ⟨fun k hsp heven hrange => ?_, fun k hsp hbad => ?_, fun hempty => ?_⟩⟩
  · exact ⟨_, exec_ret_commits hsp ((pcLegal_iff _).2 ⟨heven, hrange⟩), rfl, rfl⟩
  · rw [exec_ret_of_entry hsp]
    exact State.run_bad_suppressed ((pcLegal_eq_false_iff _).2 hbad)
  · rw [exec_ret_of_empty hempty]
    exact State.run_raise_suppressed .stackUnf 0

/-- Settles O16: the sum goes to CHECK unreduced, and a legal one fits the pc. -/
theorem jpV0JumpsOrFaults : Obligations.JpV0JumpsOrFaults := by
  rintro nnn s sum rfl
  refine ⟨decode_encode (.jpV0 nnn), fun heven hrange => ?_, fun hbad => ?_⟩
  · refine State.run_jump ?_ ((pcLegal_iff _).2 ⟨heven, hrange⟩)
    exact (BitVec.toNat_ofNat ..).trans (Nat.mod_eq_of_lt (Nat.lt_of_le_of_lt hrange (by decide)))
  · exact State.run_bad_suppressed ((pcLegal_eq_false_iff _).2 hbad)

end Sys2Proof.Machine

/-! PROOFS. The statements about loads, arithmetic, logic, shifts and random (42_alu.md). Each of these instructions takes
the default advance with V[X] written, and with VF written after it where there is a flag: `State.run_setV` and
`State.run_setFlagged` say that once. What is left is what the results and flags are as numbers. -/

namespace Sys2Proof.Machine

/-! ## Results as numbers (R87) -/

section
variable (a b : Byte)

theorem byte_add_eq_ofNat : a + b = BitVec.ofNat 8 ((a.toNat + b.toNat) % 256) :=
  BitVec.eq_of_toNat_eq (by simp)

/-- Modulo 256 the borrow is the 256 added: the subtrahend is at most 255, so nothing is truncated. -/
theorem byte_sub_eq_ofNat : a - b = BitVec.ofNat 8 ((a.toNat + 256 - b.toNat) % 256) := by
  apply BitVec.eq_of_toNat_eq
  rw [BitVec.toNat_sub, BitVec.toNat_ofNat]
  omega

theorem byte_shr_one_eq_ofNat : a >>> 1 = BitVec.ofNat 8 (a.toNat / 2) := by
  apply BitVec.eq_of_toNat_eq
  rw [BitVec.toNat_ushiftRight, Nat.shiftRight_eq_div_pow, BitVec.toNat_ofNat]
  omega

theorem byte_shl_one_eq_ofNat : a <<< 1 = BitVec.ofNat 8 (a.toNat * 2 % 256) := by
  apply BitVec.eq_of_toNat_eq
  rw [BitVec.toNat_shiftLeft, Nat.shiftLeft_eq, BitVec.toNat_ofNat]
  omega

/-! ## Flags as numbers (R14) -/

theorem flagByte_decide (p : Prop) [Decidable p] : flagByte (decide p) = if p then 1 else 0 := by
  simp only [flagByte, decide_eq_true_eq]

theorem carryFlag_eq : carryFlag a b = if a.toNat + b.toNat > 255 then 1 else 0 := flagByte_decide _

theorem noBorrowFlag_eq : noBorrowFlag a b = if a.toNat ≥ b.toNat then 1 else 0 := flagByte_decide _

theorem shiftedOutRight_eq_ofNat : shiftedOutRight a = BitVec.ofNat 8 (a.toNat % 2) := by
  have hbit : (a &&& 1).toNat = a.toNat % 2 := Nat.and_one_is_mod a.toNat
  apply BitVec.eq_of_toNat_eq
  rw [shiftedOutRight, hbit, BitVec.toNat_ofNat]
  omega

/-- Bit 7 is the bit a right shift by 7 leaves in place 0. -/
theorem shiftedOutLeft_eq_ofNat : shiftedOutLeft a = BitVec.ofNat 8 (a.toNat / 128) := by
  have hbit : (a >>> 7).toNat % 2 = a.toNat / 128 := by
    rw [BitVec.toNat_ushiftRight, Nat.shiftRight_eq_div_pow]
    omega
  rw [← hbit]
  exact shiftedOutRight_eq_ofNat (a >>> 7)

end

/-! ## The shifted register (R98) -/

theorem State.shiftSource_eq (s : State) (x y : Reg) :
    s.shiftSource x y = if s.cfg.shiftSource = .vx then s.v[x] else s.v[y] := by
  unfold State.shiftSource
  cases s.cfg.shiftSource <;> rfl

/-! ## The end of the step (R88, R89) -/

section
variable {s : State} {i : Instr} {x : Reg}

theorem State.run_setV {b : Byte} (h : s.CanAdvance 2) :
    s.run i (s.advance (s.setV x b)) = .next ({ s with v := s.v.set x b }.committedAt (s.pc + 2)) :=
  s.run_advance _ i h

theorem State.run_setFlagged {r f : Byte} (h : s.CanAdvance 2) :
    s.run i (s.advance (s.setFlagged x r f)) =
      .next ({ s with v := (s.v.set x r).set vf f }.committedAt (s.pc + 2)) :=
  s.run_advance _ i h

end

/-! ## The statements -/

/-- Settles O6: V[X] alone is written, with the sum as a number for 7XNN. -/
theorem immediateLoadAndAdd : Obligations.ImmediateLoadAndAdd := by
  intro x nn s
  refine ⟨decode_encode (.ldImm x nn), decode_encode (.addImm x nn), fun h => ⟨State.run_setV h, ?_⟩⟩
  rw [← byte_add_eq_ofNat]
  exact State.run_setV h

/-- Settles O7: V[X] alone is written, with the copy or the bitwise result. -/
theorem copyAndLogicWriteOnlyVX : Obligations.CopyAndLogicWriteOnlyVX := by
  intro x y s
  refine ⟨decode_encode (.ldReg x y), decode_encode (.orReg x y), decode_encode (.andReg x y),
    decode_encode (.xorReg x y), fun h => ⟨?_, ?_, ?_, ?_⟩⟩ <;> exact State.run_setV h

/-- Settles O8: both operands are those of the start state, so the sum and its carry are, whatever X and Y. -/
theorem addRegSetsCarry : Obligations.AddRegSetsCarry := by
  intro x y s
  refine ⟨decode_encode (.addReg x y), fun h => ?_⟩
  rw [← byte_add_eq_ofNat, ← carryFlag_eq]
  exact State.run_setFlagged h

/-- Settles O9: SUB and SUBN are one subtraction with its operands exchanged. -/
theorem subtractionsSetNoBorrow : Obligations.SubtractionsSetNoBorrow := by
  intro x y s
  refine ⟨decode_encode (.subReg x y), decode_encode (.subnReg x y), fun h => ?_⟩
  simp only [← byte_sub_eq_ofNat, ← noBorrowFlag_eq]
  exact ⟨State.run_setFlagged h, State.run_setFlagged h⟩

/-- Settles O10: both shifts read the source that SHIFT_SOURCE selects. -/
theorem shiftsMoveTheLostBitIntoVF : Obligations.ShiftsMoveTheLostBitIntoVF := by
  intro x y s a hsource
  obtain rfl : a = s.shiftSource x y := hsource.trans (s.shiftSource_eq x y).symm
  refine ⟨decode_encode (.shr x y), decode_encode (.shl x y), fun h => ⟨?_, ?_⟩⟩
  · rw [← byte_shr_one_eq_ofNat, ← shiftedOutRight_eq_ofNat]
    exact State.run_setFlagged h
  · rw [← byte_shl_one_eq_ofNat, ← shiftedOutLeft_eq_ofNat]
    exact State.run_setFlagged h

/-- Settles O11: the working copy is V[X] with the masked draw, and the draw counted. -/
theorem rndMasksAFreeByte : Obligations.RndMasksAFreeByte := fun x nn s h =>
  s.run_advance (s.rndWith (Config.randomByte s.draws) x nn) (.rnd x nn) h

end Sys2Proof.Machine

/-! PROOFS. The statements about the index register and the memory transfers (43_index_memory.md). A store whose addresses
are all writable commits (`State.runStore_commits`), and what every byte then reads as is said once, in
`State.runStore_stores`. A load whose addresses are all readable commits too (`exec_ldVxMem_commits`). What is left is I as
a number. -/

namespace Sys2Proof.Machine

section
variable {s t : State} {i : Instr} {xs : List Byte} {w : Word} {x : Reg}

/-! ## Transfers that pass their checks (R42, R102) -/

theorem State.readFailing_eq_none_iff {n : Nat} :
    s.readFailing n = none ↔ ∀ k, k < n → Readable (s.i.toNat + k) := by
  simp [State.readFailing, State.baseAddr, firstFailing_eq_none, readCheck_eq_none_iff]

theorem State.runStore_commits (hadvance : s.CanAdvance 2)
    (hwritable : ∀ k, k < xs.length → Writable s.cfg.fontWritePolicy (s.i.toNat + k)) :
    s.runStore i xs w = .next ({ s.putBytes s.baseAddr xs with i := w }.committedAt (s.pc + 2)) := by
  rw [State.runStore, State.writeFailing_eq_none_iff.2 hwritable]
  exact s.run_advance _ i hadvance

/-- The whole effect of a committed store: its bytes in their order, no other byte, and I. -/
theorem State.runStore_stores (hadvance : s.CanAdvance 2) (hwf : Memory.wf (unlisted s.cfg) s.mem = true)
    (hwritable : ∀ k, k < xs.length → Writable s.cfg.fontWritePolicy (s.i.toNat + k)) :
    ∃ t, s.runStore i xs w = .next t ∧
      (∀ k (hk : k < xs.length), t.byteAt (s.i.toNat + k) = xs[k]) ∧
      (∀ a, ¬(s.i.toNat ≤ a ∧ a < s.i.toNat + xs.length) → t.byteAt a = s.byteAt a) ∧
      t = { s with mem := t.mem, i := w }.committedAt (s.pc + 2) := by
  have h := State.runStore_commits (i := i) (w := w) hadvance hwritable
  exact ⟨_, h, fun _ hk => State.byteAt_runStore_stored hwf h rfl hk,
    fun _ ha => State.byteAt_runStore_outside h ha, rfl⟩

/-- A store that committed passed every check. -/
theorem State.runStore_writable (h : s.runStore i xs w = .next t)
    (hcommitted : t.response = committedEffects false false false) :
    ∀ k, k < xs.length → Writable s.cfg.fontWritePolicy (s.i.toNat + k) := by
  rcases State.runStore_cases h with ⟨-, hwritable, -⟩ | ⟨c, info, rfl⟩
  · exact hwritable
  · simp [committedEffects] at hcommitted

@[simp] theorem bcdDigits_length (b : Byte) : (bcdDigits b).length = 3 := rfl

theorem exec_ldVxMem_commits (hadvance : s.CanAdvance 2) (hreadable : ∀ k, k ≤ x.val → Readable (s.i.toNat + k)) :
    exec (.ldVxMem x) s = .next ({ s with v := s.loadedRegs x, i := s.blockI x }.committedAt (s.pc + 2)) := by
  have hpass : s.readFailing (x.val + 1) = none :=
    State.readFailing_eq_none_iff.2 fun k hk => hreadable k (Nat.le_of_lt_succ hk)
  rw [exec, execLdVxMem, hpass]
  exact s.run_advance _ _ hadvance

theorem State.loadedRegs_getElem (s : State) (x k : Reg) :
    (s.loadedRegs x)[k] = if k ≤ x then s.byteAt (s.i.toNat + k.val) else s.v[k] := by
  simp [State.loadedRegs, State.baseAddr]

theorem State.byteAt_congr {u : State} (hmem : u.mem = t.mem) (hcfg : u.cfg = t.cfg) (a : Nat) :
    u.byteAt a = t.byteAt a := by
  rw [State.byteAt, State.byteAt, hmem, hcfg]

/-! ## I as a number (R103 to R105, R107, R108) -/

/-- The end of a block that lies in memory is at most 0x1000, so I does not wrap. -/
theorem State.blockI_toNat (hlast : Readable (s.i.toNat + x.val)) :
    (s.blockI x).toNat = if s.cfg.blockIMode = .advance then s.i.toNat + x.val + 1 else s.i.toNat := by
  rw [Readable] at hlast
  unfold State.blockI
  cases s.cfg.blockIMode with
  | advance =>
    simp only [if_true, BitVec.toNat_add, BitVec.toNat_ofNat]
    omega
  | unchanged => rfl

theorem word_add_byte_eq_ofNat (a : Word) (b : Byte) :
    a + b.setWidth 16 = BitVec.ofNat 16 ((a.toNat + b.toNat) % 65536) :=
  BitVec.eq_of_toNat_eq (by simp)

theorem byte_mul_five_eq_ofNat (b : Byte) : b.setWidth 16 * 5 = BitVec.ofNat 16 (b.toNat * 5) :=
  BitVec.eq_of_toNat_eq (by simp)

end

/-! ## The statements -/

/-- Settles O19: FX33 is a store of the three digits that leaves I. -/
theorem bcdIsStored : Obligations.BcdIsStored := by
  intro x s hadvance hwf hwritable
  rw [exec_ldBVx_eq_runStore]
  obtain ⟨t, h, hstored, houtside, ht⟩ := State.runStore_stores (i := .ldBVx x) (xs := bcdDigits (s.getV x))
    (w := s.i) hadvance hwf hwritable
  exact ⟨t, h, hstored 0 (by simp), hstored 1 (by simp), hstored 2 (by simp), houtside, ht⟩

/-- Settles O20: FX55 is a store of the first X + 1 registers. -/
theorem registersAreStored : Obligations.RegistersAreStored := by
  intro x s hadvance hwf hwritable
  have hlen := s.regsUpTo_length x
  rw [exec_ldMemVx_eq_runStore]
  obtain ⟨t, h, hstored, houtside, ht⟩ := State.runStore_stores (i := .ldMemVx x) (w := s.blockI x) hadvance hwf
    fun k (hk : k < (s.regsUpTo x).length) => hwritable k (by omega)
  have hi : t.i = s.blockI x := congrArg State.i ht
  obtain ⟨hlast, -⟩ := hwritable x.val (Nat.le_refl _)
  refine ⟨t, h, fun k hk => ?_, fun a ha => houtside a (by omega), ?_, by rw [hi]; exact ht⟩
  · exact (hstored k.val (by omega)).trans (s.regsUpTo_getElem x _)
  · rw [hi, State.blockI_toNat hlast]

/-- Settles O21: the working copy is the loaded registers and the moved I. -/
theorem registersAreLoaded : Obligations.RegistersAreLoaded := fun x s hadvance hreadable =>
  ⟨_, exec_ldVxMem_commits hadvance hreadable, s.loadedRegs_getElem x,
    State.blockI_toNat (hreadable x.val (Nat.le_refl _)), rfl⟩

/-- Settles O22: the addresses the store could write the load can read, and there it finds the stored registers. -/
theorem storedRegistersLoadBack : Obligations.StoredRegistersLoadBack := by
  intro x s t u hwf hcommitted h hmem hcfg hi hadvance
  have hlen := s.regsUpTo_length x
  rw [exec_ldMemVx_eq_runStore] at h
  have hwritable := State.runStore_writable h hcommitted
  have hreadable (k : Nat) (hk : k ≤ x.val) : Readable (u.i.toNat + k) := hi ▸ (hwritable k (by omega)).1
  refine ⟨_, exec_ldVxMem_commits hadvance hreadable, fun k hk => ?_⟩
  calc (u.loadedRegs x)[k] = u.byteAt (u.i.toNat + k.val) := by rw [u.loadedRegs_getElem, if_pos hk]
    _ = t.byteAt (s.i.toNat + k.val) := by rw [State.byteAt_congr hmem hcfg, hi]
    _ = (s.regsUpTo x)[k.val] := State.byteAt_runStore_stored hwf h hcommitted (by omega)
    _ = s.v[k] := s.regsUpTo_getElem x _

/-- Settles O18: I alone is written, and its new value is the formula's number. -/
theorem indexRegisterWrites : Obligations.IndexRegisterWrites := by
  intro nnn x s
  refine ⟨decode_encode (.ldI nnn), decode_encode (.addIVx x), decode_encode (.ldFVx x), fun h => ⟨?_, ?_, ?_⟩⟩
  · exact s.run_advance _ (.ldI nnn) h
  · rw [← word_add_byte_eq_ofNat]
    exact s.run_advance _ (.addIVx x) h
  · rw [← byte_mul_five_eq_ofNat]
    exact s.run_advance _ (.ldFVx x) h

end Sys2Proof.Machine

/-! PROOFS. The statements about the display (44_display.md). What a whole draw does to the pixels is `blit_drew`; here its
hits are the statements' `State.SpriteHits` (`State.blit_sprite_drew`), and a DXYN that passes its checks commits what was
drawn (`exec_drw_draws`). The second of two equal draws undoes the first (`Canvas.Drew.twice_disp`). -/

namespace Sys2Proof.Machine

/-! ## The flag and the pixels as values -/

theorem flagByte_eq_one_iff (b : Bool) : flagByte b = 1 ↔ b = true := by cases b <;> decide

theorem flagByte_eq_zero_iff (b : Bool) : flagByte b = 0 ↔ b = false := by cases b <;> decide

theorem Display.ext_pixel {d e : Display} (h : ∀ px py, d.pixel px py = e.pixel px py) : d = e :=
  Vector.ext fun i hi => Vector.ext fun j hj => h ⟨i, hi⟩ ⟨j, hj⟩

/-- A byte is not 0 exactly if one of its bits, counted from bit 7 down as the columns of a sprite row are, is 1. -/
theorem exists_column_iff_ne_zero (b : Byte) : (∃ j, j < 8 ∧ b.getLsbD (7 - j) = true) ↔ b ≠ 0 := by
  constructor
  · rintro ⟨j, -, hbit⟩ rfl
    simp at hbit
  · intro hne
    by_contra hnone
    refine hne (BitVec.eq_of_getLsbD_eq fun k hk => ?_)
    have hclear : b.getLsbD k = false := Bool.eq_false_iff.2 fun hbit =>
      hnone ⟨7 - k, by omega, by rwa [Nat.sub_sub_self (Nat.le_of_lt_succ hk)]⟩
    simp [hclear]

/-! ## The same draw twice (R116) -/

section
variable {c₀ c₁ c₂ c₃ : Canvas} {H : Fin 64 → Fin 32 → Prop}

/-- What is flipped twice is as it was. -/
theorem Canvas.Drew.twice_disp (first : c₀.Drew c₁ H) (second : c₂.Drew c₃ H) (hdisp : c₂.disp = c₁.disp) :
    c₃.disp = c₀.disp := by
  refine Display.ext_pixel fun px py => Bool.eq_iff_iff.2 ?_
  rw [second.pixel, hdisp, first.pixel]
  tauto

/-- The second draw collides exactly where the first one set a pixel (C7). -/
theorem Canvas.Drew.twice_collision (first : c₀.Drew c₁ H) (second : c₂.Drew c₃ H) (hdisp : c₂.disp = c₁.disp)
    (hcollision : c₂.collision = false) :
    c₃.collision = true ↔ ∃ px py, H px py ∧ c₀.disp.pixel px py = false := by
  have hset (px py) (hit : H px py) : c₁.disp.pixel px py = true ↔ c₀.disp.pixel px py = false := by
    simp [first.pixel, hit]
  simp only [second.collision, hcollision, hdisp, Bool.false_eq_true, false_or]
  exact exists_congr fun px => exists_congr fun py => and_congr_right (hset px py)

end

section
variable {s t : State} {x y : Reg} {n : Nibble}

/-! ## The sprite (R110, R111, R114) -/

@[simp] theorem State.bytesAt_length (s : State) (a n : Nat) : (s.bytesAt a n).length = n := by simp [State.bytesAt]

@[simp] theorem State.bytesAt_getElem (s : State) (a n r : Nat) (h : r < (s.bytesAt a n).length) :
    (s.bytesAt a n)[r] = s.byteAt (a + r) := by simp [State.bytesAt]

/-- The pixels a draw of the rows from I on hits are those of `SpriteHits`. -/
theorem State.blit_sprite_drew (s : State) (x0 y0 : Nat) {n : Nat} (hn : n ≤ 32) :
    Canvas.Drew ⟨s.disp, false, false⟩ (blit s.disp x0 y0 (s.bytesAt s.baseAddr n)) (s.SpriteHits x0 y0 n) := by
  have hits : s.SpriteHits x0 y0 n = fun px py =>
      ∃ (r : Nat) (h : r < (s.bytesAt s.baseAddr n).length), ∃ j, j < 8 ∧
        (s.bytesAt s.baseAddr n)[r].getLsbD (7 - j) = true ∧ (x0 + j) % 64 = px.val ∧ (y0 + r) % 32 = py.val := by
    funext px py
    simp only [State.SpriteHits, State.bytesAt_length, State.bytesAt_getElem, State.baseAddr, exists_prop, eq_iff_iff]
    constructor
    · rintro ⟨r, hr, j, hj, hx, hy, hbit⟩
      exact ⟨r, hr, j, hj, hbit, hx, hy⟩
    · rintro ⟨r, hr, j, hj, hbit, hx, hy⟩
      exact ⟨r, hr, j, hj, hx, hy, hbit⟩
  rw [hits]
  exact blit_drew s.disp x0 y0 _ (by simpa using hn)

/-- Some pixel is hit exactly if some row byte is not 0: every sprite bit 1 lands on the screen, for it is wrapped. -/
theorem State.exists_spriteHits_iff (s : State) (x0 y0 n : Nat) :
    (∃ px py, s.SpriteHits x0 y0 n px py) ↔ ∃ r, r < n ∧ s.byteAt (s.i.toNat + r) ≠ 0 := by
  simp only [← exists_column_iff_ne_zero]
  constructor
  · rintro ⟨px, py, r, hr, j, hj, -, -, hbit⟩
    exact ⟨r, hr, j, hj, hbit⟩
  · rintro ⟨r, hr, j, hj, hbit⟩
    exact ⟨Fin.ofNat 64 (x0 + j), Fin.ofNat 32 (y0 + r), r, hr, j, hj, rfl, rfl, hbit⟩

/-! ## The end of the step (R70, R64) -/

/-- CLS and DXYN commit their working copy at pc + 2 and tell whether they wrote draw_dirty. -/
theorem State.run_drawn (i : Instr) (u : State) (changed : Bool) (h : s.CanAdvance 2) :
    s.run i (.done { state := u, npc := s.pc.toNat + 2, displayChanged := changed }) =
      .next (u.drawnAt (s.pc + 2) changed) := by
  rw [State.run_done _ _ _ (h.pcLegal rfl)]
  simp [State.commit, State.drawnAt, committedEffects, ofNat_pc_add]

@[simp] theorem State.drawnAt_v (t : State) (pc : Word) (changed : Bool) : (t.drawnAt pc changed).v = t.v := rfl

/-- Where the step begun at pc + 2 may advance by k, the one before it may advance by 2 + k. -/
theorem State.CanAdvance.after {k : Nat} (h : s.CanAdvance (2 + k)) (hpc : t.pc = s.pc + 2) : t.CanAdvance k := by
  obtain ⟨heven, hrange⟩ := h
  have hnext : t.pc.toNat = s.pc.toNat + 2 := by rw [hpc]; bv_omega
  exact ⟨by omega, by omega⟩

/-- DXYN's working copy for what was drawn: VF, the pixels and draw_dirty. -/
def State.withCanvas (s : State) (c : Canvas) : State :=
  { s with v := s.v.set vf (flagByte c.collision), disp := c.disp, drawDirty := s.drawDirty || c.changed }

theorem exec_drw_commits (hadvance : s.CanAdvance 2) (hreadable : ∀ k, k < n.toNat → Readable (s.i.toNat + k))
    {c : Canvas} (hc : blit s.disp s.v[x].toNat s.v[y].toNat (s.bytesAt s.baseAddr n.toNat) = c) :
    exec (.drw x y n) s = .next ((s.withCanvas c).drawnAt (s.pc + 2) c.changed) := by
  subst hc
  rw [exec, execDrw, State.readFailing_eq_none_iff.2 hreadable]
  exact State.run_drawn _ _ _ hadvance

/-- The whole effect of a DXYN that passes its checks: it commits what a draw of the sprite at (V[X], V[Y]) makes. -/
theorem exec_drw_draws (hadvance : s.CanAdvance 2) (hreadable : ∀ k, k < n.toNat → Readable (s.i.toNat + k)) :
    ∃ c, Canvas.Drew ⟨s.disp, false, false⟩ c (s.SpriteHits s.v[x].toNat s.v[y].toNat n.toNat) ∧
      exec (.drw x y n) s = .next ((s.withCanvas c).drawnAt (s.pc + 2) c.changed) :=
  ⟨_, s.blit_sprite_drew _ _ (by omega), exec_drw_commits hadvance hreadable rfl⟩

theorem State.withCanvas_vf (s : State) (c : Canvas) : (s.withCanvas c).v[vf] = flagByte c.collision :=
  s.getV_setV_same vf _

theorem State.withCanvas_getElem_other (s : State) (c : Canvas) (h : x ≠ vf) : (s.withCanvas c).v[x] = s.v[x] :=
  s.getV_setV_other vf x _ h.symm

end

/-! ## The statements -/

/-- Settles O27: every part is read off the draw's canvas. -/
theorem drwDrawsTheSprite : Obligations.DrwDrawsTheSprite := by
  intro x y n s hadvance hreadable
  obtain ⟨c, drew, hexec⟩ := exec_drw_draws (x := x) (y := y) hadvance hreadable
  have hcollision := drew.collision
  have hchanged := drew.changed
  have hvf := s.withCanvas_vf c
  simp only [Bool.false_eq_true, false_or] at hcollision hchanged
  refine ⟨_, c.changed, hexec, drew.pixel, fun hhit => ?_, fun hmiss => ?_, ?_, ?_⟩
  · exact hvf.trans ((flagByte_eq_one_iff _).2 (hcollision.2 hhit))
  · refine hvf.trans ((flagByte_eq_zero_iff _).2 (Bool.eq_false_iff.2 fun hset => ?_))
    obtain ⟨px, py, hit, hpixel⟩ := hcollision.1 hset
    exact Bool.false_ne_true ((hmiss px py hit).symm.trans hpixel)
  · rw [hchanged, s.exists_spriteHits_iff]
  · rw [State.drawnAt_v, hvf]
    rfl

/-- Settles O29: with X and Y other than 15 the second draw has the first one's origin, so it hits the same pixels. -/
theorem drawingTwiceRestoresTheDisplay : Obligations.DrawingTwiceRestoresTheDisplay := by
  intro x y n s t hx hy hadvance hreadable h
  obtain ⟨heven, hrange⟩ := hadvance
  obtain ⟨c, first, hexec⟩ := exec_drw_draws (x := x) (y := y) ⟨heven, by omega⟩ hreadable
  obtain rfl := Host.Outcome.next.inj (hexec.symm.trans h)
  obtain ⟨c', second, hexec'⟩ := exec_drw_draws (s := (s.withCanvas c).drawnAt (s.pc + 2) c.changed) (x := x) (y := y)
    (State.CanAdvance.after ⟨heven, hrange⟩ rfl) hreadable
  rw [State.drawnAt_v, s.withCanvas_getElem_other c hx, s.withCanvas_getElem_other c hy] at second
  refine ⟨_, hexec', first.twice_disp second rfl, ?_⟩
  rw [State.drawnAt_v, State.withCanvas_vf, flagByte_eq_one_iff]
  exact first.twice_collision second rfl rfl

/-- Settles O26: the working copy is the clear display with draw_dirty set. -/
theorem clsClearsAndSetsDirty : Obligations.ClsClearsAndSetsDirty :=
  ⟨decode_encode .cls, fun _ h => ⟨_, State.run_drawn .cls _ true h, Display.pixel_clear, rfl⟩⟩

/-- Settles O28: there is no address to check, and a draw of no rows leaves the canvas as it was. -/
theorem drwOfHeightZero : Obligations.DrwOfHeightZero := by
  intro x y s hadvance
  have hnothing : s.withCanvas ⟨s.disp, false, false⟩ = { s with v := s.v.set vf 0 } := by
    simp [State.withCanvas, flagByte]
  rw [← hnothing]
  exact exec_drw_commits (n := 0) hadvance (fun k hk => absurd hk (Nat.not_lt_zero k)) rfl

end Sys2Proof.Machine

/-! PROOFS. The statements about keys and timers (45_timers_keys.md). SKP and SKNP are skips on the key test, and FX0A has
one equation without a key (`exec_ldVxK_waits`) and one with a key (`exec_ldVxK_of_key`). What FETCH and all that follows
can do to the latch is said once, in `State.fetchExecute_pendingKey`. -/

namespace Sys2Proof.Machine

section
variable {s t : State} {i : Instr} {x : Reg}

/-! ## The key test (R119, R120) -/

/-- The test compares the key and V[X] as numbers, so a V[X] above 15 is never a key. -/
theorem State.keyMatches_iff (s : State) (x : Reg) :
    s.keyMatches x = true ↔ s.pendingKey.map BitVec.toNat = some s.v[x].toNat := by
  unfold State.keyMatches
  cases s.pendingKey with
  | none   => simp
  | some k =>
    have hval : (k.setWidth 8).toNat = k.toNat := BitVec.toNat_setWidth_of_le (by decide)
    simp [← BitVec.toNat_inj, hval]

/-! ## FX0A (R121) -/

/-- FX0A's working copy with a key: V[X] holds the key, and the latch is empty. -/
def State.keyConsumed (s : State) (x : Reg) (k : Nibble) : State :=
  { s with v := s.v.set x (BitVec.ofNat 8 k.toNat), pendingKey := none }

theorem exec_ldVxK_of_key {k : Nibble} (hkey : s.pendingKey = some k) :
    exec (.ldVxK x) s = s.run (.ldVxK x) (s.advance (s.keyConsumed x k)) := by
  simp only [exec, execLdVxK, hkey, State.setV, State.keyConsumed, BitVec.ofNat_toNat]

theorem State.commit_waiting (s : State) :
    State.commit [] { state := s, npc := s.pc.toNat, wait := true } =
      { s with waitingKey := true, response := committedEffects false false true } := by
  simp [State.commit, committedEffects]

/-! ## What becomes of the latch (R128) -/

theorem exec_ldVxK_pendingKey (hpc : s.CanAdvance 0) (h : exec (.ldVxK x) s = .next t) :
    t.pendingKey = s.pendingKey ∨ t.pendingKey = none := by
  cases hkey : s.pendingKey with
  | none =>
    obtain rfl := Host.Outcome.next.inj ((exec_ldVxK_waits x hpc hkey).symm.trans h)
    exact .inl hkey
  | some k =>
    rw [exec_ldVxK_of_key hkey] at h
    rcases s.run_advance_cases (s.keyConsumed x k) (.ldVxK x) with ⟨-, e⟩ | e <;>
      obtain rfl := Host.Outcome.next.inj (e.symm.trans h)
    · exact .inr rfl
    · exact .inl hkey

theorem State.unknownOp_pendingKey (s : State) (w : Word) : (s.unknownOp w).pendingKey = s.pendingKey :=
  State.finish_induction (P := fun u => u.pendingKey = s.pendingKey) (State.advance_meets rfl) (fun _ hd _ => hd)
    fun _ _ _ => rfl

/-- FETCH and all that follows keep the latch, but an FX0A may empty it. -/
theorem State.fetchExecute_pendingKey (h : s.fetchExecute = .next t) :
    t.pendingKey = s.pendingKey ∨ (t.pendingKey = none ∧ ∃ x, decode s.fetchWord = .ok (.ldVxK x)) := by
  by_cases hpc : s.CanAdvance 0
  · cases hd : decode s.fetchWord with
    | ok i =>
      rw [State.fetchExecute_of_decode hpc hd] at h
      by_cases hi : i.row.mnemonic = "LD_VX_K"
      · obtain ⟨x, rfl⟩ := mnemonic_eq_ldVxK_iff.1 hi
        exact (exec_ldVxK_pendingKey hpc h).imp_right fun hnone => ⟨hnone, x, rfl⟩
      · exact .inl ((exec_frame h).key hi)
    | error e =>
      rw [State.fetchExecute_of_unknown hpc hd] at h
      obtain rfl := Host.Outcome.next.inj h
      exact .inl (s.unknownOp_pendingKey _)
  · rw [State.fetchExecute_of_illegal hpc] at h
    obtain rfl := Host.Outcome.next.inj h
    exact .inl rfl

/-! ## Timers (R123 to R125) -/

/-- FX15 and FX18 commit their working copy at pc + 2 and tell that they wrote a timer. -/
theorem State.run_timed (u : State) (h : s.CanAdvance 2) :
    s.run i (.done { state := u, npc := s.pc.toNat + 2, timersWritten := true }) = .next (u.timedAt (s.pc + 2)) := by
  rw [State.run_done _ _ _ (h.pcLegal rfl)]
  simp [State.commit, State.timedAt, committedEffects, ofNat_pc_add]

/-- Saturation is the subtraction of natural numbers. -/
theorem countDown_eq_ofNat (b : Byte) : countDown b = BitVec.ofNat 8 (b.toNat - 1) := by
  unfold countDown
  split
  next hzero => subst hzero; rfl
  next hne => bv_omega

/-! ## Commands and key codes (R127, R28) -/

theorem State.whenInitialised_of (h : s.initialised = true) (o : Host.Outcome State Fault Refusal) :
    s.whenInitialised o = o := if_pos h

theorem keyReport_some_of_le {k : Nat} (h : k ≤ 15) : keyReport (some k) = some (some (BitVec.ofNat 4 k)) :=
  if_pos (Nat.lt_succ_of_le h)

theorem keyReport_some_of_gt {k : Nat} (h : 15 < k) : keyReport (some k) = none :=
  if_neg (Nat.not_lt_of_le h)

theorem State.reportKey_of_keyReport {k : Option Nat} {key : Option Nibble} (h : keyReport k = some key) :
    s.reportKey k = .next { s with pendingKey := key } :=
  State.reportKey_eq_next_iff.2 ⟨key, h, rfl⟩

theorem State.reportKey_refused {k : Option Nat} (h : keyReport k = none) : s.reportKey k = .refused .badKeyCode := by
  simp only [State.reportKey, h]

end

/-! ## The statements -/

/-- Settles O30: both are skips, on the key test and on its negation. -/
theorem keySkipsTestTheLatch : Obligations.KeySkipsTestTheLatch := by
  intro x s
  have htest := s.keyMatches_iff x
  refine ⟨decode_encode (.skp x), decode_encode (.sknp x), fun heven => ⟨?_, ?_⟩⟩
  · exact State.skipsIf_of_exec rfl htest heven
  · exact State.skipsIf_of_exec rfl (by rw [Bool.not_eq_true', ← Bool.not_eq_true, htest]) heven

/-- Settles O35: TICK and CLEAR_DIRTY do not write the latch, and of a STEP only FX0A does. -/
theorem theLatchIsKeptUntilConsumed : Obligations.TheLatchIsKeptUntilConsumed := by
  intro s t c hc h
  simp only [List.mem_cons, List.not_mem_nil, or_false] at hc
  rcases hc with rfl | rfl | rfl <;> have h := State.of_whenInitialised h
  · exact (State.fetchExecute_pendingKey h).imp_right fun ⟨hnone, hword⟩ => ⟨hnone, rfl, hword⟩
  · obtain rfl := Host.Outcome.next.inj h
    exact .inl rfl
  · obtain rfl := Host.Outcome.next.inj h
    exact .inl rfl

/-- Settles O31: without a key the next pc is the pc itself; with one it is pc + 2, and at 0xFFE that is no legal pc. -/
theorem keyWaitStaysOrConsumesTheKey : Obligations.KeyWaitStaysOrConsumesTheKey := by
  intro x s
  refine ⟨decode_encode (.ldVxK x), fun hpc hkey => ?_, fun k hadvance hkey => ?_, fun k hlast hkey => ?_⟩
  · rw [exec_ldVxK_waits x hpc hkey, s.commit_waiting]
  · rw [exec_ldVxK_of_key hkey]
    exact s.run_advance _ _ hadvance
  · have hend : s.pc.toNat + 2 = 0x1000 := by rw [hlast]; rfl
    have hbad : pcLegal 0x1000 = false := by decide
    rw [exec_ldVxK_of_key hkey, State.advance, hend]
    exact State.run_bad_suppressed hbad

/-- Settles O32: FX07 writes a register and FX15 and FX18 write a timer; sound_on is read off the ST written. -/
theorem timerAccess : Obligations.TimerAccess := by
  intro x s
  refine ⟨decode_encode (.ldVxDt x), decode_encode (.ldDtVx x), decode_encode (.ldStVx x),
    fun hadvance => ⟨?_, ?_, ?_, ?_⟩⟩
  · exact State.run_setV hadvance
  · exact State.run_timed _ hadvance
  · exact State.run_timed _ hadvance
  · exact bne_iff_ne

/-- Settles O33: both timers count down by the saturating subtraction. -/
theorem tickCountsDown : Obligations.TickCountsDown := by
  refine fun s => ⟨fun hinit => ?_, fun hno => State.whenInitialised_of_not hno _⟩
  rw [← countDown_eq_ofNat, ← countDown_eq_ofNat]
  exact State.whenInitialised_of hinit _

/-- Settles O34: what a key report latches is decided by its code alone. -/
theorem reportKeyAndClearDirty : Obligations.ReportKeyAndClearDirty := by
  intro s hinit
  have accepted := State.whenInitialised_of hinit
  refine ⟨?_, fun k hk => ?_, fun k hk => ?_, ?_⟩
  · exact (accepted _).trans (State.reportKey_of_keyReport rfl)
  · exact (accepted _).trans (State.reportKey_of_keyReport (keyReport_some_of_le hk))
  · exact (accepted _).trans (State.reportKey_refused (keyReport_some_of_gt hk))
  · exact accepted _

end Sys2Proof.Machine

/-! PROOFS. The statements about exceptions (60_exceptions.md). The causes an instruction can raise are said once, for the
address checks and for each instruction (`exec_raisesFatal`). That the core never stops is an invariant of the run: an
initialised core with legal commands ahead (`State.Ready`) has a next state, which is again one (`State.Ready.step`). -/

namespace Sys2Proof.Machine

/-! ## The causes an instruction can raise (R131, R133) -/

/-- The causes R131 marks fatal, 1 to 5. -/
def fatalCauses : List Cause := [.addrPc, .addrMem, .fontWrite, .stackOvf, .stackUnf]

/-- The fault an instruction raises, if it raises one, is fatal. -/
def Attempt.RaisesFatal : Attempt → Prop
  | .done _    => True
  | .raise c _ => c ∈ fatalCauses

theorem readCheck_fatal {a : Nat} {c : Cause} (h : readCheck a = some c) : c ∈ fatalCauses := by
  have hbad : ¬Readable a := fun hok => nomatch ((readCheck_eq_none_iff a).2 hok).symm.trans h
  obtain rfl : Cause.addrMem = c := Option.some.inj ((readCheck_of_not_readable hbad).symm.trans h)
  decide

theorem writeCheck_fatal {p : FontWritePolicy} {a : Nat} {c : Cause} (h : writeCheck p a = some c) : c ∈ fatalCauses := by
  have hbad : ¬Writable p a := fun hok => nomatch ((writeCheck_eq_none_iff p a).2 hok).symm.trans h
  obtain rfl : writeCause a = c := Option.some.inj ((writeCheck_of_not_writable hbad).symm.trans h)
  unfold writeCause
  split <;> decide

/-- An instruction with memory accesses raises only what its address check gives (R42). -/
theorem guarded_firstFailing_raisesFatal {check : Nat → Option Cause} (hcheck : ∀ a c, check a = some c → c ∈ fatalCauses)
    (a n : Nat) (d : Done) : (guarded (firstFailing check a n) (.done d)).RaisesFatal := by
  rcases firstFailing_cases check a n with ⟨hnone, -⟩ | ⟨k, c, -, hsome, hc, -⟩
  · rw [hnone]
    trivial
  · rw [hsome]
    exact hcheck _ c hc

theorem exec_raisesFatal (i : Instr) (s : State) :
    ∃ a : Attempt, exec i s = .next (s.finish [] (encode i) a) ∧ a.RaisesFatal := by
  cases i with
  | call nnn =>
    refine ⟨_, rfl, ?_⟩
    split
    case isTrue  => trivial
    case isFalse => exact (by decide : Cause.stackOvf ∈ fatalCauses)
  | ret =>
    refine ⟨_, rfl, ?_⟩
    split
    next => exact (by decide : Cause.stackUnf ∈ fatalCauses)
    next => trivial
  | drw | ldVxMem => exact ⟨_, rfl, guarded_firstFailing_raisesFatal (fun _ _ => readCheck_fatal) _ _ _⟩
  | ldBVx | ldMemVx => exact ⟨_, rfl, guarded_firstFailing_raisesFatal (fun _ _ => writeCheck_fatal) _ _ _⟩
  | ldVxK x =>
    refine ⟨_, rfl, ?_⟩
    split <;> trivial
  | _ => exact ⟨_, rfl, trivial⟩

section
variable {s t : State} {i : Instr}

/-- A commit leaves the fault records alone. -/
theorem exec_committed_records {d w k : Bool} (h : exec i s = .next t) (hcommitted : t.response = committedEffects d w k) :
    SameRecords s t := by
  obtain ⟨a, rfl, ha⟩ := exec_cases h
  rcases s.finish_cases [] (encode i) a with ⟨d, rfl, -, e⟩ | ⟨d, -, -, e⟩ | ⟨c, n, -, e⟩ <;>
    rw [e] at hcommitted ⊢
  · exact ha.records
  · simp [committedEffects] at hcommitted
  · simp [committedEffects] at hcommitted

/-! ## An initialised core goes on (R75, R133) -/

/-- The outcome is a next state of an initialised core whose driver goes on with the commands `rest`. -/
def Continues (rest : List Command) (o : Host.Outcome State Fault Refusal) : Prop :=
  ∃ t, o = .next t ∧ t.initialised = true ∧ t.driver = rest

theorem exec_continues (i : Instr) (hinit : s.initialised = true) : Continues s.driver (exec i s) := by
  obtain ⟨a, ha⟩ := exec_eq_finish i s
  have hframe := exec_frame ha
  exact ⟨_, ha, hframe.initialised.trans hinit, hframe.driver⟩

theorem State.unknownOp_keeps (s : State) (w : Word) :
    (s.unknownOp w).initialised = s.initialised ∧ (s.unknownOp w).driver = s.driver :=
  State.finish_induction (P := fun u => u.initialised = s.initialised ∧ u.driver = s.driver)
    (State.advance_meets ⟨rfl, rfl⟩) (fun _ hd _ => hd) fun _ _ _ => ⟨rfl, rfl⟩

/-- FETCH and all that follows end in a next state at every pc and for every word (R68, R73). -/
theorem State.fetchExecute_continues (hinit : s.initialised = true) : Continues s.driver s.fetchExecute := by
  by_cases hpc : s.CanAdvance 0
  · cases hd : decode s.fetchWord with
    | ok i => exact State.fetchExecute_of_decode hpc hd ▸ exec_continues i hinit
    | error e =>
      obtain ⟨hinit', hdriver⟩ := s.unknownOp_keeps s.fetchWord
      exact ⟨_, State.fetchExecute_of_unknown hpc hd, hinit'.trans hinit, hdriver⟩
  · exact ⟨_, State.fetchExecute_of_illegal hpc, hinit, rfl⟩

theorem State.init_continues (hinit : s.initialised = true) (rom : Option (List Byte)) :
    Continues s.driver (.next (s.init rom)) := by
  refine ⟨_, rfl, ?_⟩
  unfold State.init
  split
  · split
    · exact ⟨hinit, rfl⟩
    · exact ⟨rfl, rfl⟩
  · exact ⟨hinit, rfl⟩

theorem LegalKey.keyReport {k : Option Nat} (h : LegalKey k) : ∃ key, keyReport k = some key := by
  cases k with
  | none   => exact ⟨none, rfl⟩
  | some k => exact ⟨_, keyReport_some_of_le h⟩

theorem State.stepCommand_continues (hinit : s.initialised = true) {e : KeyEvent} (he : (Command.step e).Legal) :
    Continues s.driver (s.stepCommand e) := by
  cases e with
  | absent => exact State.fetchExecute_continues hinit
  | present k =>
    obtain ⟨key, hkey⟩ := LegalKey.keyReport he
    rw [State.stepCommand_present_of_reportKey (State.reportKey_of_keyReport hkey)]
    exact State.fetchExecute_continues (s := { s with pendingKey := key }) hinit

/-- A command with a meaning is accepted, and it leaves the driver its later commands (R62, R63). -/
theorem State.command_continues (hinit : s.initialised = true) {c : Command} (hc : c.Legal) :
    Continues s.driver (s.command c) := by
  have accepted := State.whenInitialised_of hinit
  cases c with
  | init rom => exact State.init_continues hinit rom
  | step e =>
    obtain ⟨t, hstep, ht⟩ := State.stepCommand_continues hinit hc
    exact ⟨t, (accepted _).trans hstep, ht⟩
  | reportKey k =>
    obtain ⟨key, hkey⟩ := LegalKey.keyReport hc
    exact ⟨_, (accepted _).trans (State.reportKey_of_keyReport hkey), hinit, rfl⟩
  | tick       => exact ⟨_, accepted _, hinit, rfl⟩
  | clearDirty => exact ⟨_, accepted _, hinit, rfl⟩

/-- Initialised, and every command still to come has a meaning. -/
def State.Ready (s : State) : Prop := s.initialised = true ∧ ∀ c ∈ s.driver, c.Legal

theorem State.Ready.nextCommand_legal (h : s.Ready) : s.nextCommand.Legal := by
  obtain ⟨-, hlegal⟩ := h
  unfold State.nextCommand
  cases hdriver : s.driver with
  | nil         => trivial
  | cons c rest => exact hlegal c (hdriver ▸ List.mem_cons_self)

theorem State.Ready.step (h : s.Ready) : ∃ t, step s = .next t ∧ t.Ready := by
  have hnext := h.nextCommand_legal
  obtain ⟨hinit, hlegal⟩ := h
  obtain ⟨t, hstep, hinit', hdriver⟩ : Continues s.driver.tail (Machine.step s) :=
    State.command_continues (s := { s with driver := s.driver.tail }) hinit hnext
  exact ⟨t, hstep, hinit', fun c hc => hlegal c (List.mem_of_mem_tail (hdriver ▸ hc))⟩

end

/-- A property under which a step has a next state with that property lets the core run any number of steps. -/
theorem core_run_of_step {M : Host.Core} {P : M.State → Prop} (hstep : ∀ s, P s → ∃ t, M.step s = .next t ∧ P t) (n : Nat)
    {s : M.State} (hs : P s) : ∃ t, M.run n s = .next t ∧ P t := by
  induction n generalizing s with
  | zero => exact ⟨s, rfl, hs⟩
  | succ n ih =>
    obtain ⟨m, hm, hPm⟩ := hstep s hs
    simp only [Host.Core.run, hm]
    exact ih hPm

/-! ## The statements -/

/-- Settles O54: that the core is ready is kept by every step, so the run of n steps ends in a ready state. -/
theorem theCoreNeverStops : Obligations.TheCoreNeverStops := by
  intro n s hinit hlegal
  obtain ⟨t, hrun, hinit', -⟩ :=
    core_run_of_step (M := core) (P := State.Ready) (fun _ => State.Ready.step) n ⟨hinit, hlegal⟩
  exact ⟨t, hrun, hinit'⟩

/-- Settles O45: CHECK either commits the working copy, which has the records of the state, or takes one fault: ADDR_PC or
the one the instruction raised. -/
theorem faultsArePrecise : Obligations.FaultsArePrecise := by
  intro i s
  obtain ⟨a, h, hraise⟩ := exec_raisesFatal i s
  refine ⟨_, h, ?_⟩
  rcases s.finish_cases [] (encode i) a with ⟨d, -, -, e⟩ | ⟨d, -, -, e⟩ | ⟨c, n, rfl, e⟩ <;> rw [e] at h ⊢
  · obtain ⟨-, hlegal⟩ := exec_committed h rfl
    obtain ⟨heven, hrange⟩ := (pcLegal_iff _).1 hlegal
    exact .inl ⟨_, _, _, rfl, heven, hrange, exec_committed_records h rfl⟩
  · exact .inr ⟨.addrPc, d.npc, by decide, s.takeFault_suppressed .addrPc (encode i) d.npc⟩
  · exact .inr ⟨c, n, hraise, s.takeFault_suppressed c (encode i) n⟩

/-- Settles O44: the tables of R131, read off the two definitions. -/
theorem causeCodesAndBits : Obligations.CauseCodesAndBits := by
  unfold Obligations.CauseCodesAndBits
  decide

end Sys2Proof.Machine

/-! PROOFS. The statements about reset and hazards (70_reset_and_hazards.md). What every address reads as after a
successful INIT is said once, in `State.byteAt_initWith`; the regions of R145 are its cases. A final state is at an encoded
JP to its own pc (`State.Final.fetchWord_eq_encode`), and such a jump commits where it stands (`exec_jp_self`). -/

namespace Sys2Proof.Machine

section
variable {s : State} {rom : List Byte} {a : Nat}

/-! ## The bytes after INIT (R145) -/

theorem State.byteAt_initWith (s : State) (hlen : rom.length ≤ 3584) (a : Nat) :
    (s.initWith rom).byteAt a =
      if h : 0x200 ≤ a ∧ a < 0x200 + rom.length then rom[a - 0x200]'(by omega) else unlisted s.cfg a :=
  Memory.read_writeAll rom [] 0x200 a (by omega) rfl

theorem State.byteAt_initWith_rom (s : State) (hlen : rom.length ≤ 3584) {k : Nat} (hk : k < rom.length) :
    (s.initWith rom).byteAt (0x200 + k) = rom[k] := by
  have hin : 0x200 ≤ 0x200 + k ∧ 0x200 + k < 0x200 + rom.length := by omega
  simp [s.byteAt_initWith hlen, hin]

theorem State.byteAt_initWith_outside (s : State) (hlen : rom.length ≤ 3584)
    (hout : ¬(0x200 ≤ a ∧ a < 0x200 + rom.length)) : (s.initWith rom).byteAt a = unlisted s.cfg a :=
  (s.byteAt_initWith hlen a).trans (dif_neg hout)

/-! ## The two ends of INIT (R145, R146) -/

theorem State.command_init_of_fits (s : State) (hlen : rom.length ≤ 3584) :
    s.command (.init (some rom)) = .next (s.initWith rom) :=
  congrArg Host.Outcome.next (if_neg (Nat.not_lt.2 hlen))

theorem State.command_init_of_too_long (s : State) (hlen : 3584 < rom.length) :
    s.command (.init (some rom)) = .next { s with response := .initLoadError } :=
  congrArg Host.Outcome.next (if_pos hlen)

/-! ## The jump to itself (R151, R77) -/

theorem toNat_pc_setWidth {pc : Word} (hpc : pc.toNat < 0x1000) : (pc.setWidth 12).toNat = pc.toNat :=
  (BitVec.toNat_setWidth ..).trans (Nat.mod_eq_of_lt hpc)

/-- A pc below 0x1000 is the 12-bit target of a jump to itself. -/
theorem encode_jp_self {pc : Word} (hpc : pc.toNat < 0x1000) : encode (.jp (pc.setWidth 12)) = 0x1000 ||| pc := by
  apply BitVec.eq_of_toNat_eq
  calc (wordA 0x1 (pc.setWidth 12)).toNat = 0x1000 + pc.toNat := by
        rw [wordA_toNat, toNat_pc_setWidth hpc]
        rfl
    _ = (0x1000 ||| pc).toNat := Nat.two_pow_add_eq_or_of_lt (i := 12) hpc 1

theorem State.CanAdvance.pc_lt (h : s.CanAdvance 0) : s.pc.toNat < 0x1000 := by
  obtain ⟨-, hrange⟩ := h
  omega

theorem State.Final.fetchWord_eq_encode (h : s.Final) (hpc : s.CanAdvance 0) :
    s.fetchWord = encode (.jp (s.pc.setWidth 12)) := by
  obtain ⟨-, -, -, hword⟩ := h
  rw [hword, encode_jp_self hpc.pc_lt]

theorem exec_jp_self (hpc : s.CanAdvance 0) : exec (.jp (s.pc.setWidth 12)) s = .next (s.committedAt s.pc) := by
  have htarget : (s.pc.setWidth 12).toNat = s.pc.toNat := toNat_pc_setWidth hpc.pc_lt
  exact State.run_jump htarget.symm (htarget.symm ▸ s.canAdvance_zero_iff.1 hpc)

end

/-! ## The statements -/

/-- Settles O36: INIT lists the ROM's bytes alone, so every other address reads as the font or 0. -/
theorem initCreatesTheMachine : Obligations.InitCreatesTheMachine := by
  refine ⟨rfl, fun s rom => ⟨fun hlen => ?_, s.command_init_of_too_long, rfl⟩⟩
  have outside {a : Nat} (hout : ¬(0x200 ≤ a ∧ a < 0x200 + rom.length)) := s.byteAt_initWith_outside hlen hout
  refine ⟨_, s.command_init_of_fits hlen, fun a => ?_, fun a hlow hhigh => ?_, fun k hk => ?_, fun a hlow _ => ?_, rfl⟩
  · exact (outside (by omega)).trans (dif_pos a.isLt)
  · exact (outside (by omega)).trans (dif_neg (by omega))
  · exact s.byteAt_initWith_rom hlen hk
  · exact (outside (by omega)).trans (dif_neg (by omega))

/-- Settles O43: the word decodes to a jump to the pc, and waiting_key is 0 already. -/
theorem finalStateStays : Obligations.FinalStateStays := by
  intro s hfinal hpc
  have hword := hfinal.fetchWord_eq_encode hpc
  obtain ⟨hinit, -, hwaiting, -⟩ := hfinal
  calc s.command (.step .absent) = s.fetchExecute := State.command_step_absent hinit
    _ = exec (.jp (s.pc.setWidth 12)) s := State.fetchExecute_of_decode hpc (by rw [hword, decode_encode])
    _ = .next (s.committedAt s.pc) := exec_jp_self hpc
    _ = .next { s with response := committedEffects false false false } := by rw [State.committedAt, ← hwaiting]

end Sys2Proof.Machine
